-- ==== Sys2Proof/Word.lean ====
section
/-! DEFINITION. The word types of NMCORE-1 and the names of its two buffers and two directions.
Registers are 32 bits, slot lengths and flags 16 bits, buffers are bytes (R11); the host sees an 18-bit byte address space (R65). -/

namespace Sys2Proof

/-- A byte of FM, RF or a slot buffer. -/
abbrev Byte := BitVec 8

/-- A 16-bit quantity: slot lengths and flags, UDP ports, checksums (R11, R63). -/
abbrev Half := BitVec 16

/-- A 32-bit register (R11, R30). -/
abbrev Word := BitVec 32

/-- A byte address of the host's 18-bit space (R65). -/
abbrev HostAddr := BitVec 18

/-- The two byte buffers a CSUM span can lie in: the FrameModel and the ReceivedFrame (R61, R62, R93). -/
inductive Space where
  /-- The FrameModel buffer. -/
  | fm
  /-- The ReceivedFrame buffer. -/
  | rf
  deriving DecidableEq, Repr

/-- The direction of a queue and of a sync: transmit or receive (R63, R176). -/
inductive Direction where
  /-- Transmit. -/
  | tx
  /-- Receive. -/
  | rx
  deriving DecidableEq, Repr

end Sys2Proof
end

