-- ==== Sys2Proof/Config.lean ====
section
/-! DEFINITION. What an implementation of NMCORE-1 fixes (the parameters of R10, the buffer capacities of R8 and R9) and
the free values: opaque constants without a body, so that nothing proved about the model can rest on what they are. -/

namespace Sys2Proof

/-- What a chip fixes: the parameters of R10, read back by the host from the CFG registers (R36), and one reading of the spec that R10
does not list, `hostReadsTail`. The numbers are plain; `Params.legal` (WellFormed.lean) gives R10's ranges. -/
structure Params where
  /-- NUM_TX_QUEUES. -/
  numTxQueues : Nat
  /-- NUM_RX_QUEUES. -/
  numRxQueues : Nat
  /-- NUM_SLOTS, the same for every queue. -/
  numSlots : Nat
  /-- SLOT_BUF_SIZE, bytes per slot buffer. -/
  slotBufSize : Nat
  /-- POLL_INTERVAL_US. -/
  pollIntervalUs : Nat
  /-- TX_BACKOFF_US. -/
  txBackoffUs : Nat
  /-- IP_TTL. -/
  ipTtl : Nat
  /-- Whether the host can read TAIL of a queue: it can by R30, R39, R252 and V-Z11, it cannot by R84's first sentence and D44. The model
  holds both readings. DESIGN CHOICE, safe, log 25. -/
  hostReadsTail : Bool
  deriving DecidableEq, Repr

namespace Config

/-- FM_CAP, the capacity of the FrameModel buffer in bytes (R8). -/
def fmCap : Nat := 65536

/-- RF_CAP, the capacity of the ReceivedFrame buffer in bytes (R9, D25). -/
def rfCap : Nat := 65536

/-- The parameters State.reset is built with: the configuration of D45 (four of them are OPEN in R10), and a TAIL the host can read, as
in V-Z11 (log 25). DESIGN CHOICE, unsafe, log 2: a claim about `State.reset` itself holds for this configuration only. -/
def exampleParams : Params where
  numTxQueues := 1
  numRxQueues := 1
  numSlots := 8
  slotBufSize := 2048
  pollIntervalUs := 100000
  txBackoffUs := 100000
  ipTtl := 64
  hostReadsTail := true

/-- What a host read returns where the spec fixes no value (R43, R78; U3, U4; log 25), per draw. Free value, log 6. -/
opaque freeRead : Nat → Word

/-- FM_LEN after LAYOUT_OVERFLOW (R142; U5), per draw. Free value, log 7. -/
opaque freeFmLen : Nat → Word

/-- RESULT0 of a TIMEOUT whose count of polls does not fit 32 bits (R190), per draw. Free value, log 15. -/
opaque freePollCount : Nat → Word

/-- The length of a slot nothing has written since reset (R281; U6), by direction, queue and slot index. Free value, log 9. -/
opaque freeSlotLen : Direction → Nat → Nat → Half

/-- The flags of a slot nothing has written since reset (R281; U6). Free value, log 9. -/
opaque freeSlotFlags : Direction → Nat → Nat → Half

/-- Byte `j` of a slot buffer where nothing has written it since reset (R281; U6). Free value, log 9. -/
opaque freeSlotByte : Direction → Nat → Nat → Nat → Byte

end Config

/-- One receive slot the substrate publishes: its length, flags and bytes (R178). -/
structure SlotChoice where
  /-- The length the substrate writes, 0 to 65535. -/
  len : Half
  /-- The 16 flag bits. -/
  flags : Half
  /-- The bytes; as many of them as the length and the slot buffer take are used (log 8). -/
  bytes : List Byte
  deriving DecidableEq, Repr

/-- The substrate's choice at one `sync(TX)`: for each transmit queue, from queue 0 on, how many slots it completes (R177).
The queues past the end of the list complete none; a number above `inflight(q)` means `inflight(q)` (log 8). -/
abbrev TxChoice := List Nat

/-- The substrate's choice at one `sync(RX)`: for each receive queue, from queue 0 on, the slots it publishes (R178).
The queues past the end of the list publish none; slots beyond the room in the queue are not published (log 8). -/
abbrev RxChoice := List (List SlotChoice)

namespace Config

/-- The substrate's choice at a `sync(TX)` for which the environment lists none, per draw (R176, R177; U7). Free value, log 8. -/
opaque freeTxChoice : Nat → TxChoice

/-- The substrate's choice at a `sync(RX)` for which the environment lists none, per draw (R176, R178; U7). Free value, log 8. -/
opaque freeRxChoice : Nat → RxChoice

end Config

end Sys2Proof
end

