-- ==== Sys2Proof/Syntax.lean ====
section
/-! DEFINITION. The six engine commands of "NMCORE command set, revision 1" (R2, R92), one constructor per row of
spec/opcode_table.json. A command carries no immediate and no register number (R94); CSUM alone has a field, SP (R93). -/

namespace Sys2Proof

/-- An engine command (R92). -/
inductive Instr where
  /-- CSUM: fold a span of FM (SP = 0) or RF (SP = 1) into ACC (R112). -/
  | csum (sp : Space)
  /-- WRAPSUM: finalise the sum in ACC (R113). -/
  | wrapsum
  /-- BUILD: lay out the frame described by the PacketSpec registers into FM (R140). -/
  | build
  /-- SEND: transmit the FrameModel in one slot (R181). -/
  | send
  /-- RECV: receive one logical frame, or time out (R185). -/
  | recv
  /-- VERIFY: compare the ReceivedFrame with the FrameModel (R220). -/
  | verify
  deriving DecidableEq, Repr

end Sys2Proof
end

