-- ==== Sys2Proof/Machine/State.lean ====
section
/-! DEFINITION. The state of NMCORE-1 as plain data: everything R20 lists (registers, buffers, rings, hidden state), and the
environment's side (the host's stream and the substrate's listed choices), which is the model's own; the reasons a step can
stop; and the state after reset (R281, R282). -/

namespace Sys2Proof.Machine

/-- A sparse table from an index to a value: entries by strictly rising index, an index that is not listed has no value yet. -/
abbrev Table (α : Type) := List (Nat × α)

/-- A byte memory: `Table Byte` is `List Host.Cell`. A listed byte is a written one (its written-mark of R43 is set). -/
abbrev Memory := Table Byte

/-- A register of `w` bits with its written-mark (R43). -/
structure Reg (w : Nat) where
  /-- The bits the register holds. -/
  value : BitVec w
  /-- The written-mark: set by any write, cleared by reset (R43). -/
  written : Bool
  deriving DecidableEq, Repr

/-- A register whose reset value is UNSPEC: mark clear; the value is 0. A command that reads it goes on with that value in a run
that is faulted from then on, and reports no code (log 4). DESIGN CHOICE, unsafe, log 3. -/
def Reg.unspec (w : Nat) : Reg w := { value := 0, written := false }

/-- The ten PacketSpec registers (R33). -/
structure PacketSpec where
  /-- DST_MAC_HI: octets 0 and 1 of the destination MAC. -/
  dstMacHi : Reg 16
  /-- DST_MAC_LO: octets 2 to 5 of the destination MAC. -/
  dstMacLo : Reg 32
  /-- SRC_MAC_HI: octets 0 and 1 of the source MAC. -/
  srcMacHi : Reg 16
  /-- SRC_MAC_LO: octets 2 to 5 of the source MAC. -/
  srcMacLo : Reg 32
  /-- SRC_IP, a number in host order. -/
  srcIp : Reg 32
  /-- DST_IP, a number in host order. -/
  dstIp : Reg 32
  /-- SRC_PORT. -/
  srcPort : Reg 16
  /-- DST_PORT. -/
  dstPort : Reg 16
  /-- FILLER, the payload byte. -/
  filler : Reg 8
  /-- FRAME_LEN, the requested total frame length. -/
  frameLen : Reg 32
  deriving DecidableEq, Repr

/-- One slot of a queue (R63). -/
structure Slot where
  /-- The slot buffer's bytes, listed once written; addresses 0 to SLOT_BUF_SIZE - 1. -/
  buf : Memory
  /-- The 16-bit byte count. -/
  len : Half
  /-- The 16 flag bits: bit 0 MOREFRAG, bit 1 REPORT (R175). -/
  flags : Half
  deriving DecidableEq, Repr

/-- A `transmit` event of R177: the bytes and flags of one slot handed to the substrate. -/
structure TxEvent where
  /-- `buf[0 : len]` of the slot. -/
  bytes : List Byte
  /-- The slot's flags. -/
  flags : Half
  deriving DecidableEq, Repr

/-- A transmit queue: its pointer registers (R39), its slots (R63), HWCUR (R42), and the record of its transmit events
(R177: recorded for the observation, in order per queue; not state of the block, log 17). -/
structure TxQueue where
  /-- TXQ[q].HEAD. -/
  head : Word
  /-- TXQ[q].CUR. -/
  cur : Word
  /-- TXQ[q].TAIL. -/
  tail : Word
  /-- TXQ[q].HWCUR (hidden). -/
  hwcur : Word
  /-- SLOT(TX, q, i), by index. -/
  slots : Table Slot
  /-- The transmit events, oldest first. -/
  wire : List TxEvent
  deriving DecidableEq, Repr

/-- A receive queue: its pointer registers (R39) and its slots (R63). -/
structure RxQueue where
  /-- RXQ[q].HEAD. -/
  head : Word
  /-- RXQ[q].CUR. -/
  cur : Word
  /-- RXQ[q].TAIL. -/
  tail : Word
  /-- SLOT(RX, q, i), by index. -/
  slots : Table Slot
  deriving DecidableEq, Repr

/-- Where the engine stands in its command. It determines STATUS.BUSY and STATUS.PHASE (R24, R32); the three `EXEC` places
say whether the command's first lines, or SEND's or RECV's `loop:`, come next (log 10). -/
inductive Engine where
  /-- Phase IDLE. -/
  | idle
  /-- Phase EXEC: a command has been accepted and its first line comes next (R241). -/
  | start
  /-- Phase EXEC, at SEND's `loop:` (R181). -/
  | sendLoop
  /-- Phase TX_WAIT: SEND sleeps (R184). -/
  | sendSleep
  /-- Phase EXEC, at RECV's `loop:` (R185). -/
  | recvLoop
  /-- Phase RX_WAIT: RECV sleeps (R190). -/
  | recvSleep
  deriving DecidableEq, Repr

/-- The status codes of R242. A code that R242 says is never produced has no constructor. -/
inductive StatusCode where
  /-- 0x00. -/
  | ok
  /-- 0x01, fatal. -/
  | layoutOverflow
  /-- 0x02. -/
  | timeout
  /-- 0x03, fatal. -/
  | oversizedFrame
  /-- 0x04. -/
  | lengthMismatch
  /-- 0x05. -/
  | contentMismatch
  /-- 0x06, fatal. -/
  | txFrameTooLarge
  /-- 0x07, fatal. -/
  | rxPartialFrame
  /-- 0x10. -/
  | illegalCommand
  /-- 0x11. -/
  | badOperand
  deriving DecidableEq, Repr

/-- An action of the host (R101, R280). -/
inductive HostOp where
  /-- A read of `width` bits at a host address. -/
  | read (width : Nat) (addr : HostAddr)
  /-- A write of `width` bits at a host address; a narrower write uses the value's low bits. -/
  | write (width : Nat) (addr : HostAddr) (value : Word)
  /-- The host reads STATUS until BUSY = 0 (R101 `wait`). -/
  | wait
  /-- The host does nothing while the engine makes one step (log 1). -/
  | pass
  /-- The host resets the block (R280, R253). -/
  | reset
  deriving DecidableEq, Repr

/-- The environment's side, all of it the model's own and none of it state of the block (log 1, log 6, log 8). -/
structure Env where
  /-- The host operations still to be performed, next first (R22, R293). -/
  host : List HostOp
  /-- The host operation performed last, if any; `pass` is none (R293's end of a run). -/
  lastOp : Option HostOp
  /-- What the host's last read returned. -/
  readData : Word
  /-- The substrate's choices listed for the next `sync(TX)`s, next first (R101 `sub:`, R177). -/
  txScript : List TxChoice
  /-- The substrate's choices listed for the next `sync(RX)`s, next first (R101 `sub:`, R178). -/
  rxScript : List RxChoice
  /-- How many free values have been drawn. -/
  draws : Nat
  deriving DecidableEq, Repr

/-- The state of the machine (R20), and its environment. -/
@[ext]
structure State where
  /-- The parameters the CFG registers are hardwired to (R36). -/
  cfg : Params
  /-- CMD: the last accepted command word (R31). -/
  cmd : Word
  /-- Where the engine stands: STATUS.BUSY and STATUS.PHASE (R24, R32). -/
  engine : Engine
  /-- STATUS.DONE. -/
  done : Bool
  /-- STATUS.FATAL. -/
  fatal : Bool
  /-- STATUS.OVERRUN. -/
  overrun : Bool
  /-- STATUS.CODE. -/
  code : StatusCode
  /-- ARG0. -/
  arg0 : Reg 32
  /-- ARG1. -/
  arg1 : Reg 32
  /-- ACC, the checksum accumulator (R34). -/
  acc : Reg 32
  /-- RESULT0. -/
  result0 : Word
  /-- RESULT1. -/
  result1 : Word
  /-- RESULT2. -/
  result2 : Word
  /-- The PacketSpec registers. -/
  spec : PacketSpec
  /-- Address space FM: the bytes with their written-mark set (R61, R43). -/
  fm : Memory
  /-- FM_LEN. -/
  fmLen : Word
  /-- Address space RF: the bytes with their written-mark set (R62, R43). -/
  rf : Memory
  /-- RF_LEN. -/
  rfLen : Word
  /-- RX_ELAPSED, 64 bits (R38). -/
  rxElapsed : BitVec 64
  /-- The transmit queues, from TXQ[0] on (R170). -/
  txq : List TxQueue
  /-- The receive queues, from RXQ[0] on (R170). -/
  rxq : List RxQueue
  /-- Hidden `bacc`: BUILD's accumulator (R42). -/
  bacc : Word
  /-- Hidden `rcur`: RECV's drain cursor (R42). -/
  rcur : Word
  /-- Hidden `rn`: how many slots the drain has consumed (R42). -/
  rn : Nat
  /-- Hidden `tx_rounds`: SEND's failed attempts (R42). -/
  txRounds : Word
  /-- Hidden `rx_polls`: RECV's failed polls (R42). -/
  rxPolls : Nat
  /-- The model fault UNWRITTEN_READ of a register, recorded and kept to the end of the run (R43, R260, R293): a command has read a
  register whose written-mark was clear. That command reports no code (R248, `outcome`). The model's own record, no state of the chip and
  never in STATUS (R260). -/
  faulted : Bool
  /-- The environment. -/
  env : Env
  deriving DecidableEq, Repr

/-- The model faults that stop the machine. -/
inductive Fault where
  /-- UNWRITTEN_READ of a buffer byte: a command reads a byte of FM or RF whose written-mark is clear (R43, R260). Raised by CSUM,
  SEND and VERIFY through `readSpan` and `compareFrom`. Safe: the chip reads some value and goes on, the model stops (R43: "a model
  must treat the read as the model fault"), log 4. UNWRITTEN_READ of a register is recorded in `State.faulted`. -/
  | unwrittenRead (sp : Space) (addr : Nat)
  deriving DecidableEq, Repr

/-- The model refusals. -/
inductive Refusal where
  /-- An instruction without a meaning yet. Raised by no arm of `exec`. Safe. -/
  | notModelled (mnemonic : String)
  /-- HOST_ACCESS_REFUSED: a host access that is unmapped, of the wrong width or misaligned (R68, R260). Raised by the host's
  read and write steps. Safe: it has no effect on the block, and the model gives the run no value (R68). -/
  | hostAccessRefused (width : Nat) (addr : HostAddr)
  deriving DecidableEq, Repr

/-- The outcome of a step of this machine. -/
abbrev Result := Host.Outcome State Fault Refusal

/-- A transmit queue after reset: every usable slot free, nothing handed over (R282). -/
def TxQueue.reset (p : Params) : TxQueue :=
  { head := 0, cur := 0, tail := BitVec.ofNat 32 (p.numSlots - 1), hwcur := 0, slots := [], wire := [] }

/-- A receive queue after reset: nothing pending (R282). -/
def RxQueue.reset : RxQueue :=
  { head := 0, cur := 0, tail := 0, slots := [] }

/-- The PacketSpec registers after reset: UNSPEC, marks clear (R281). -/
def PacketSpec.reset : PacketSpec where
  dstMacHi := Reg.unspec 16
  dstMacLo := Reg.unspec 32
  srcMacHi := Reg.unspec 16
  srcMacLo := Reg.unspec 32
  srcIp := Reg.unspec 32
  dstIp := Reg.unspec 32
  srcPort := Reg.unspec 16
  dstPort := Reg.unspec 16
  filler := Reg.unspec 8
  frameLen := Reg.unspec 32

/-- The environment of a machine to which nothing has been given to do (DESIGN CHOICE, log 1, log 8). -/
def Env.empty : Env :=
  { host := [], lastOp := none, readData := 0, txScript := [], rxScript := [], draws := 0 }

/-- The state after reset of a block with parameters `p`, in the environment `e` (R281, R282). -/
def State.resetWith (p : Params) (e : Env) : State where
  cfg := p
  cmd := 0
  engine := .idle
  done := false
  fatal := false
  overrun := false
  code := .ok
  arg0 := Reg.unspec 32
  arg1 := Reg.unspec 32
  acc := Reg.unspec 32
  result0 := 0
  result1 := 0
  result2 := 0
  spec := PacketSpec.reset
  fm := []
  fmLen := 0
  rf := []
  rfLen := 0
  rxElapsed := 0
  txq := List.replicate p.numTxQueues (TxQueue.reset p)
  rxq := List.replicate p.numRxQueues RxQueue.reset
  bacc := 0
  rcur := 0
  rn := 0
  txRounds := 0
  rxPolls := 0
  faulted := false
  env := e

/-- The machine right after reset: R281's values, the example parameters (log 2), and nothing for the host to do (log 1). -/
def State.reset : State := State.resetWith Config.exampleParams Env.empty

end Sys2Proof.Machine
end

