-- ==== Sys2Proof/Machine/Ops.lean ====
section
/-! DEFINITION. The named operations over memory and registers, and the life cycle every command shares: acceptance (R241),
`finish` (R241), `halt` (R243: the analogue of taking an exception), and the way out, reset (R280; a halted engine has no
other, R250). -/

namespace Sys2Proof.Machine

/-! ### Tables and byte memories -/

/-- The entries from index `a` on. -/
def Table.seek {α : Type} (m : Table α) (a : Nat) : Table α := m.dropWhile fun c => c.1 < a

/-- The value at index `a`, if one is listed. -/
def Table.read {α : Type} (m : Table α) (a : Nat) : Option α :=
  match Table.seek m a with
  | [] => none
  | c :: _ => if c.1 = a then some c.2 else none

/-- `MemRead(S, a, n)` (R13): the `n` values from index `a` on, or the first index that lists none. -/
def Table.readRun {α : Type} (n a : Nat) (m : Table α) : Except Nat (List α) :=
  match n with
  | 0 => .ok []
  | n + 1 =>
    match Table.seek m a with
    | [] => .error a
    | c :: rest =>
      if c.1 = a then
        match Table.readRun n (a + 1) rest with
        | .ok vs => .ok (c.2 :: vs)
        | .error b => .error b
      else .error a

/-- The `n` values from index `a` on, `dflt i` standing for an index `i` that lists none. -/
def Table.readRunD {α : Type} (dflt : Nat → α) (n a : Nat) (m : Table α) : List α :=
  match n with
  | 0 => []
  | n + 1 =>
    match Table.seek m a with
    | [] => dflt a :: Table.readRunD dflt n (a + 1) []
    | c :: rest =>
      if c.1 = a then c.2 :: Table.readRunD dflt n (a + 1) rest
      else dflt a :: Table.readRunD dflt n (a + 1) (c :: rest)

/-- The entries that list `vs` from index `a` on. -/
def Table.number {α : Type} (a : Nat) (vs : List α) : Table α :=
  match vs with
  | [] => []
  | v :: rest => (a, v) :: Table.number (a + 1) rest

/-- `MemWrite(S, a, n, bytes)` (R13): the values `vs` from index `a` on; every other index keeps its own. -/
def Table.writeRun {α : Type} (m : Table α) (a : Nat) (vs : List α) : Table α :=
  m.takeWhile (fun c => c.1 < a) ++ Table.number a vs ++ Table.seek m (a + vs.length)

/-- One value written at index `a`. -/
def Table.write {α : Type} (m : Table α) (a : Nat) (v : α) : Table α := Table.writeRun m a [v]

/-- The canonical form of a table: strictly rising indices, all below `cap`. -/
abbrev Table.wf {α : Type} (cap : Nat) (m : Table α) : Prop :=
  m.Pairwise (fun c d => c.1 < d.1) ∧ ∀ c ∈ m, c.1 < cap

/-- The canonical form of a byte memory of `cap` bytes. An unlisted byte reads as no value, so no entry equals what an unlisted
address reads as. -/
abbrev Memory.wf (cap : Nat) (m : Memory) : Prop := Table.wf cap m

/-- The buffer a space names (R61, R62). -/
def State.memory (s : State) (sp : Space) : Memory :=
  match sp with
  | .fm => s.fm
  | .rf => s.rf

/-- The state with the byte at `addr` of a buffer written. -/
def State.writeByte (s : State) (sp : Space) (addr : Nat) (b : Byte) : State :=
  match sp with
  | .fm => { s with fm := Table.write s.fm addr b }
  | .rf => { s with rf := Table.write s.rf addr b }

/-! ### Registers with written-marks -/

/-- A command has read registers, `marked` saying that the mark of each was set; where one was clear, the read is the model fault
UNWRITTEN_READ (R43, R260), which is recorded and kept to the end of the run (R293). That the command then goes on with the value the
register holds, as the chip goes on with some value, up to the first check that fails, is the model's choice (DESIGN CHOICE, log 4);
it reports no code any more (`outcome`). -/
def recordReads (marked : Bool) (s : State) : State := { s with faulted := s.faulted || !marked }

/-- A write of a register sets its mark (R43). -/
def Reg.set {w : Nat} (v : BitVec w) : Reg w := { value := v, written := true }

/-- The RESULT registers as a command writes them (R35). -/
def setResults (r0 r1 r2 : Word) (s : State) : State :=
  { s with result0 := r0, result1 := r1, result2 := r2 }

/-! ### The life cycle of a command -/

/-- The engine is executing a command (R32: BUSY = 1 exactly when PHASE is not IDLE). -/
def State.busy (s : State) : Bool := s.engine ≠ .idle

/-- A command word is accepted when the engine is IDLE and not halted (R245). -/
def State.accepting (s : State) : Bool := !s.busy && !s.fatal

/-- Acceptance of a command word (R241). FATAL and OVERRUN are unchanged. -/
def accept (w : Word) (s : State) : State :=
  { s with cmd := w, engine := .start, done := false, code := .ok, result0 := 0, result1 := 0, result2 := 0 }

/-- `finish(c)` (R241): the command ends with code `c`. -/
def finish (c : StatusCode) (s : State) : State :=
  { s with code := c, engine := .idle, done := true }

/-- `halt(c)` (R243): FATAL is set, then the command ends with code `c`. -/
def halt (c : StatusCode) (s : State) : State :=
  finish c { s with fatal := true }

/-- The end of a command whose outcome is the model fault: the engine is idle again and nothing else happens. The fault is never in
STATUS (R260), so CODE is what acceptance left, FATAL is not set, and no check records its results. -/
def endFaulted (s : State) : State := { s with engine := .idle, done := true }

/-- The outcome of a command whose register reads so far had the marks `marked` (R240, R248): what `report` reports, unless a mark was
clear. Then UNWRITTEN_READ, met at that read, pre-empts the report: no check after the read reports anything (R248). -/
def outcome (marked : Bool) (report : State → State) (s : State) : State :=
  match marked with
  | true => report s
  | false => endFaulted s

/-- A host write that the engine ignores because it is busy or halted (R245). -/
def setOverrun (s : State) : State := { s with overrun := true }

/-- Reset (R280): every piece of the block's state at R281's value, whatever was executing; the environment stays (log 19). -/
def resetBlock (s : State) : State := State.resetWith s.cfg s.env

/-! ### Faults in the middle of a meaning -/

/-- A read that must succeed: its value goes on to `k`, a fault stops the machine where the read occurs (R248). -/
def need {α : Type} (r : Except Fault α) (k : α → Result) : Result :=
  match r with
  | .ok v => k v
  | .error f => .fault f

/-! ### The environment -/

/-- One more free value has been drawn. -/
def Env.drawn (e : Env) : Env := { e with draws := e.draws + 1 }

/-- The substrate's choice at this `sync(TX)`, and the environment after it: the next listed choice, else a free one (log 8). -/
def Env.takeTx (e : Env) : TxChoice × Env :=
  match e.txScript with
  | c :: rest => (c, { e with txScript := rest })
  | [] => (Config.freeTxChoice e.draws, e.drawn)

/-- The substrate's choice at this `sync(RX)`, and the environment after it (log 8). -/
def Env.takeRx (e : Env) : RxChoice × Env :=
  match e.rxScript with
  | c :: rest => (c, { e with rxScript := rest })
  | [] => (Config.freeRxChoice e.draws, e.drawn)

end Sys2Proof.Machine
end

