-- ==== Sys2Proof/Machine/Operands.lean ====
section
/-! DEFINITION. The operand forms: byte order (R13, R69, R70), the span of a buffer (R104), the PacketSpec registers as BUILD
reads them (R33, R140), a slot and its bytes (R63), and the arithmetic of ring indices (R170, R172, R173). -/

namespace Sys2Proof.Machine

/-! ### Byte order -/

/-- `BE16(v)`: the more significant byte first (R13). -/
def be16 (v : Half) : List Byte := [v.extractLsb' 8 8, v.extractLsb' 0 8]

/-- `BE32(v)`: the most significant byte first (R13). -/
def be32 (v : Word) : List Byte :=
  [v.extractLsb' 24 8, v.extractLsb' 16 8, v.extractLsb' 8 8, v.extractLsb' 0 8]

/-- The big-endian 16-bit word of two bytes, `hi * 256 + lo`, as a 32-bit number (R70, R110). -/
def beWord (hi lo : Byte) : Word := BitVec.ofNat 32 (hi.toNat * 256 + lo.toNat)

/-! ### Spans of FM and RF -/

/-- `MemRead(S, off, n)` by a command: the bytes, or UNWRITTEN_READ at the first byte whose mark is clear (R13, R43; log 16). -/
def readSpan (sp : Space) (s : State) (off n : Nat) : Except Fault (List Byte) :=
  match Table.readRun n off (s.memory sp) with
  | .ok bytes => .ok bytes
  | .error a => .error (.unwrittenRead sp a)

/-! ### The PacketSpec registers -/

/-- The nine PacketSpec values BUILD reads after FRAME_LEN has passed its check (R140). -/
structure FrameFields where
  /-- DST_MAC_HI. -/
  dstMacHi : Half
  /-- DST_MAC_LO. -/
  dstMacLo : Word
  /-- SRC_MAC_HI. -/
  srcMacHi : Half
  /-- SRC_MAC_LO. -/
  srcMacLo : Word
  /-- SRC_IP. -/
  srcIp : Word
  /-- DST_IP. -/
  dstIp : Word
  /-- SRC_PORT. -/
  srcPort : Half
  /-- DST_PORT. -/
  dstPort : Half
  /-- FILLER. -/
  filler : Byte
  deriving DecidableEq, Repr

/-- The values the nine registers hold (R140). -/
def PacketSpec.fields (p : PacketSpec) : FrameFields where
  dstMacHi := p.dstMacHi.value
  dstMacLo := p.dstMacLo.value
  srcMacHi := p.srcMacHi.value
  srcMacLo := p.srcMacLo.value
  srcIp := p.srcIp.value
  dstIp := p.dstIp.value
  srcPort := p.srcPort.value
  dstPort := p.dstPort.value
  filler := p.filler.value

/-- The written-mark of each of the ten registers is set (R43, R284; log 14). -/
def PacketSpec.marked (p : PacketSpec) : Bool :=
  p.dstMacHi.written && p.dstMacLo.written && p.srcMacHi.written && p.srcMacLo.written && p.srcIp.written &&
  p.dstIp.written && p.srcPort.written && p.dstPort.written && p.filler.written && p.frameLen.written

/-! ### Slots -/

/-- A slot nothing has written since reset: UNSPEC contents (R281; log 9). -/
def Slot.unspec (d : Direction) (q i : Nat) : Slot :=
  { buf := [], len := Config.freeSlotLen d q i, flags := Config.freeSlotFlags d q i }

/-- `SLOT(d, q, i)` (R63). -/
def slotAt (d : Direction) (q : Nat) (slots : Table Slot) (i : Nat) : Slot :=
  match Table.read slots i with
  | some sl => sl
  | none => Slot.unspec d q i

/-- `SLOT(d, q, i).buf[0 : n]` (R63). -/
def Slot.bytes (d : Direction) (q i : Nat) (sl : Slot) (n : Nat) : List Byte :=
  Table.readRunD (Config.freeSlotByte d q i) n 0 sl.buf

/-- The slot with `bytes` in its buffer from index 0 on, and its length and flags; the buffer's further bytes keep their
values (R182, R178). -/
def Slot.fill (sl : Slot) (bytes : List Byte) (len flags : Half) : Slot :=
  { buf := Table.writeRun sl.buf 0 bytes, len := len, flags := flags }

/-! ### Ring indices -/

/-- `(i + k) mod NUM_SLOTS`; `k = 1` is `next(i)` (R13, R170). -/
def ringAdd (n : Nat) (i : Word) (k : Nat) : Word := BitVec.ofNat 32 ((i.toNat + k) % n)

/-- `(tail - head) mod NUM_SLOTS`, with the non-negative remainder (R12, R172, R173). -/
def ringGap (n : Nat) (head tail : Word) : Nat := (tail.toNat + (n - head.toNat % n)) % n

/-- `free(q)` (R172). -/
def TxQueue.free (n : Nat) (t : TxQueue) : Nat := ringGap n t.head t.tail

/-- `inflight(q) = (NUM_SLOTS - 1) - free(q)` (R172). -/
def TxQueue.inflight (n : Nat) (t : TxQueue) : Nat := n - 1 - t.free n

/-- `pending(q)` (R173). -/
def RxQueue.pending (n : Nat) (r : RxQueue) : Nat := ringGap n r.head r.tail

/-- The first element, counted from index `q`, that satisfies `p`: the scan of R180. -/
def firstFrom {α : Type} (p : α → Bool) (q : Nat) (l : List α) : Option (Nat × α) :=
  match l with
  | [] => none
  | x :: rest => if p x then some (q, x) else firstFrom p (q + 1) rest

/-- The first transmit queue with a free slot (R172, R180). -/
def firstFree (s : State) : Option (Nat × TxQueue) :=
  firstFrom (fun t => 0 < t.free s.cfg.numSlots) 0 s.txq

/-- The first receive queue with a pending slot (R173, R180). -/
def firstPending (s : State) : Option (Nat × RxQueue) :=
  firstFrom (fun r => 0 < r.pending s.cfg.numSlots) 0 s.rxq

end Sys2Proof.Machine
end

