-- ==== Sys2Proof/Machine/Flags.lean ====
section
/-! DEFINITION. The status computations: STATUS as the host reads it (R32), the numbers of the status codes and which of them
are fatal (R242, R243), and the two results of the Checksum Engine's arithmetic (R110, R111). -/

namespace Sys2Proof.Machine

/-- The engine phases of R24. -/
inductive Phase where
  /-- No command is executing. -/
  | idle
  /-- A command is executing and is not waiting. -/
  | exec
  /-- SEND is in its backoff wait. -/
  | txWait
  /-- RECV is in its poll wait. -/
  | rxWait
  deriving DecidableEq, Repr

/-- The phase the engine is in (R24). -/
def Engine.phase (e : Engine) : Phase :=
  match e with
  | .idle => .idle
  | .start => .exec
  | .sendLoop => .exec
  | .sendSleep => .txWait
  | .recvLoop => .exec
  | .recvSleep => .rxWait

/-- STATUS.PHASE (R32). -/
def Phase.number (p : Phase) : Nat :=
  match p with
  | .idle => 0
  | .exec => 1
  | .txWait => 2
  | .rxWait => 3

/-- STATUS.CODE (R242). -/
def StatusCode.number (c : StatusCode) : Nat :=
  match c with
  | .ok => 0x00
  | .layoutOverflow => 0x01
  | .timeout => 0x02
  | .oversizedFrame => 0x03
  | .lengthMismatch => 0x04
  | .contentMismatch => 0x05
  | .txFrameTooLarge => 0x06
  | .rxPartialFrame => 0x07
  | .illegalCommand => 0x10
  | .badOperand => 0x11

/-- The fatal codes (R242, R243). -/
def StatusCode.isFatal (c : StatusCode) : Bool :=
  match c with
  | .ok => false
  | .layoutOverflow => true
  | .timeout => false
  | .oversizedFrame => true
  | .lengthMismatch => false
  | .contentMismatch => false
  | .txFrameTooLarge => true
  | .rxPartialFrame => true
  | .illegalCommand => false
  | .badOperand => false

/-- STATUS as one 32-bit word, bits 31:16 reading 0 (R32). -/
def statusWord (s : State) : Word :=
  BitVec.ofNat 32
    (s.busy.toNat + 2 * s.done.toNat + 4 * s.fatal.toNat + 8 * s.overrun.toNat
      + 16 * s.engine.phase.number + 256 * s.code.number)

/-! ### Checksum arithmetic -/

/-- One addition of `ck`: 32-bit addition, then 0xFFFF is subtracted once if the sum exceeds it (R110, D10). -/
def ckAdd (s w : Word) : Word :=
  if 0xFFFF < (s + w).toNat then s + w - 0xFFFF else s + w

/-- `ck(d, s)`: folds the big-endian words of `d` into the running sum `s`; an odd last byte is a high byte (R110). -/
def ck (d : List Byte) (s : Word) : Word :=
  match d with
  | [] => s
  | [a] => ckAdd s (beWord a 0)
  | a :: b :: rest => ck rest (ckAdd s (beWord a b))

/-- `wrap(s)`: the complement of the low 16 bits (R111). -/
def wrap (s : Word) : Half := ~~~ (s.extractLsb' 0 16)

end Sys2Proof.Machine
end

