-- ==== Sys2Proof/Machine/Builder.lean ====
section
/-! DEFINITION. The Packet Builder: the frame layout of R141 and the command BUILD (R140). The frame is computed as a byte
sequence and written once; every span R140 reads back is one it has just written (DEDUCED, safe, log 13). -/

namespace Sys2Proof.Machine

/-- `mac(HI, LO)`: the six octets in wire order (R33, R140). -/
def macBytes (hi : Half) (lo : Word) : List Byte := be16 hi ++ be32 lo

/-- The Ethernet header, `FM[0:14]` (R143). -/
def ethHeader (f : FrameFields) : List Byte :=
  macBytes f.dstMacHi f.dstMacLo ++ macBytes f.srcMacHi f.srcMacLo ++ be16 0x0800

/-- The source and destination addresses, `FM[26:34]` (R144). -/
def addresses (f : FrameFields) : List Byte := be32 f.srcIp ++ be32 f.dstIp

/-- The IPv4 header, `FM[14:34]`, of a frame of total length `l`, with `csum` in its checksum field (R144). -/
def ipHeader (p : Params) (f : FrameFields) (l : Nat) (csum : Half) : List Byte :=
  [0x45, 0x00] ++ be16 (BitVec.ofNat 16 (l - 14)) ++ be16 0x0000 ++ be16 0x4000
    ++ [BitVec.ofNat 8 p.ipTtl, 17] ++ be16 csum ++ addresses f

/-- The UDP header, `FM[34:42]`, with `csum` in its checksum field (R146). -/
def udpHeader (f : FrameFields) (l : Nat) (csum : Half) : List Byte :=
  be16 f.srcPort ++ be16 f.dstPort ++ be16 (BitVec.ofNat 16 (l - 34)) ++ be16 csum

/-- The UDP payload, `FM[42:L]` (R147). -/
def payload (f : FrameFields) (l : Nat) : List Byte := List.replicate (l - 42) f.filler

/-- The IP header checksum `ipc` (R145). -/
def ipChecksum (p : Params) (f : FrameFields) (l : Nat) : Half := wrap (ck (ipHeader p f l 0) 0)

/-- BUILD's accumulator `bacc` before `wrap`: seed, addresses, payload, UDP header with its checksum field 0 (R148). -/
def udpSum (f : FrameFields) (l : Nat) : Word :=
  ck (udpHeader f l 0) (ck (payload f l) (ck (addresses f) (BitVec.ofNat 32 (17 + (l - 34)))))

/-- The UDP checksum `udpc`, not remapped when it is 0 (R148, R149). -/
def udpChecksum (f : FrameFields) (l : Nat) : Half := wrap (udpSum f l)

/-- The whole frame, `FM[0:L]` (R141). -/
def frameBytes (p : Params) (f : FrameFields) (l : Nat) : List Byte :=
  ethHeader f ++ ipHeader p f l (ipChecksum p f l) ++ udpHeader f l (udpChecksum f l) ++ payload f l

/-- The bytes of a frame of length `l` in FM from address 0 on, with FM_LEN, its two checksums as results and the accumulator
`sum` (R150, R151). -/
def placeFrame (bytes : List Byte) (l : Nat) (ipc udpc : Half) (sum : Word) (s : State) : State :=
  { s with
    fm := Table.writeRun s.fm 0 bytes
    fmLen := BitVec.ofNat 32 l
    result0 := ipc.setWidth 32
    result1 := udpc.setWidth 32
    bacc := sum }

/-- The frame of the fields `f` laid out into FM (R140, R150). -/
def layOut (f : FrameFields) (l : Nat) (s : State) : State :=
  placeFrame (frameBytes s.cfg f l) l (ipChecksum s.cfg f l) (udpChecksum f l) (udpSum f l) s

/-- FM and FM_LEN are unspecified (R142): no byte of FM holds a value any more, and FM_LEN is a free value (log 7). -/
def forgetFrame (s : State) : State :=
  { s with fm := [], fmLen := Config.freeFmLen s.env.draws, env := s.env.drawn }

/-- BUILD (R140): FRAME_LEN is read and checked first, the other nine registers after it. LAYOUT_OVERFLOW is reported unless FRAME_LEN
was unwritten (R248); then FM and FM_LEN stay as they are. -/
def execBuild (s : State) : Result :=
  if s.spec.frameLen.value.toNat < 42 ∨ 65536 < s.spec.frameLen.value.toNat then
    .next (outcome s.spec.frameLen.written (fun t => halt .layoutOverflow (forgetFrame t))
      (recordReads s.spec.frameLen.written s))
  else
    .next (outcome s.spec.marked (finish .ok)
      (layOut s.spec.fields s.spec.frameLen.value.toNat (recordReads s.spec.marked s)))

end Sys2Proof.Machine
end

