-- ==== Sys2Proof/Machine/Checksum.lean ====
section
/-! DEFINITION. The Checksum Engine's commands, CSUM (R112) and WRAPSUM (R113). -/

namespace Sys2Proof.Machine

/-- CSUM (R112): folds the span of ARG1 bytes at ARG0 of FM or RF into ACC; BAD_OPERAND where the span leaves the 65536-byte
space (R247), unless ARG0 or ARG1 was unwritten (R248). -/
def execCsum (sp : Space) (s : State) : Result :=
  if 65536 < s.arg0.value.toNat + s.arg1.value.toNat then
    .next (outcome (s.arg0.written && s.arg1.written)
      (fun t => finish .badOperand { t with result0 := s.arg0.value, result1 := s.arg1.value })
      (recordReads (s.arg0.written && s.arg1.written) s))
  else
    need (readSpan sp s s.arg0.value.toNat s.arg1.value.toNat) fun d =>
    .next (outcome (s.arg0.written && s.arg1.written && s.acc.written) (finish .ok)
      { recordReads (s.arg0.written && s.arg1.written && s.acc.written) s with acc := Reg.set (ck d s.acc.value) })

/-- WRAPSUM (R113): RESULT0 gets `wrap(ACC)`; ACC is unchanged. -/
def execWrapsum (s : State) : Result :=
  .next (outcome s.acc.written (finish .ok)
    { recordReads s.acc.written s with result0 := (wrap s.acc.value).setWidth 32 })

end Sys2Proof.Machine
end

