-- ==== Sys2Proof/Machine/Substrate.lean ====
section
/-! DEFINITION. The substrate's two steps, `sync(TX)` (R177) and `sync(RX)` (R178): each one atomic step that covers every
queue of its direction (R176). The substrate changes nothing at any other time (R79). -/

namespace Sys2Proof.Machine

/-! ### sync(TX) -/

/-- The transmit events of `k` slots from index `i` on (R177's hand-over loop). -/
def handOver (n q : Nat) (slots : Table Slot) (k : Nat) (i : Word) : List TxEvent :=
  match k with
  | 0 => []
  | k + 1 =>
    let sl := slotAt .tx q slots i.toNat
    { bytes := sl.bytes .tx q i.toNat sl.len.toNat, flags := sl.flags }
      :: handOver n q slots k (ringAdd n i 1)

/-- The substrate step on transmit queue `q` (R177): hands over the slots from HWCUR to HEAD, then completes `k` slots, at
most `inflight(q)`. -/
def TxQueue.sync (n q k : Nat) (t : TxQueue) : TxQueue :=
  { t with
    wire := t.wire ++ handOver n q t.slots (ringGap n t.hwcur t.head) t.hwcur
    hwcur := t.head
    tail := ringAdd n t.tail (min k (t.inflight n)) }

/-- The substrate step on the transmit queues from queue `q` on. -/
def syncTxFrom (n q : Nat) (c : TxChoice) (l : List TxQueue) : List TxQueue :=
  match l with
  | [] => []
  | t :: rest => t.sync n q (c.headD 0) :: syncTxFrom n (q + 1) c.tail rest

/-- `sync(TX)` (R176, R177). -/
def syncTx (s : State) : State :=
  { s with
    txq := syncTxFrom s.cfg.numSlots 0 s.env.takeTx.1 s.txq
    env := s.env.takeTx.2 }

/-! ### sync(RX) -/

/-- The bytes the substrate writes for a slot choice: `min(len, SLOT_BUF_SIZE)` of them (R178, log 8). -/
def choiceBytes (size : Nat) (c : SlotChoice) : List Byte :=
  let k := min c.len.toNat size
  c.bytes.take k ++ List.replicate (k - c.bytes.length) 0

/-- The slots with the choices `cs` written from index `i` on (R178's loop over `j`). -/
def publish (n size q : Nat) (cs : List SlotChoice) (i : Word) (slots : Table Slot) : Table Slot :=
  match cs with
  | [] => slots
  | c :: rest =>
    publish n size q rest (ringAdd n i 1)
      (Table.write slots i.toNat
        ((slotAt .rx q slots i.toNat).fill (choiceBytes size c) c.len c.flags))

/-- The substrate step on receive queue `q` (R178): publishes the chosen slots, at most `(NUM_SLOTS - 1) - pending(q)`. -/
def RxQueue.sync (n size q : Nat) (cs : List SlotChoice) (r : RxQueue) : RxQueue :=
  let taken := cs.take (n - 1 - r.pending n)
  { r with
    slots := publish n size q taken r.tail r.slots
    tail := ringAdd n r.tail taken.length }

/-- The substrate step on the receive queues from queue `q` on. -/
def syncRxFrom (n size q : Nat) (c : RxChoice) (l : List RxQueue) : List RxQueue :=
  match l with
  | [] => []
  | r :: rest => r.sync n size q (c.headD []) :: syncRxFrom n size (q + 1) c.tail rest

/-- `sync(RX)` (R176, R178). -/
def syncRx (s : State) : State :=
  { s with
    rxq := syncRxFrom s.cfg.numSlots s.cfg.slotBufSize 0 s.env.takeRx.1 s.rxq
    env := s.env.takeRx.2 }

end Sys2Proof.Machine
end

