-- ==== Sys2Proof/Machine/RingTransport.lean ====
section
/-! DEFINITION. The Ring Transport's commands, SEND (R181) and RECV (R185). A polling attempt and a sleep are engine steps of
their own (R179, R184, R190; log 10): the meaning of SEND or RECV is its first attempt, and `sendAttempt`, `endBackoff`,
`recvAttempt` and `endPoll` are the loop. -/

namespace Sys2Proof.Machine

/-! ### SEND -/

/-- Flags of a transmit slot: REPORT set, every other bit 0 (R175). -/
def reportFlags : Half := 0x0002

/-- Transmit queue `q`, whose registers are `t`, with the frame in the slot at HEAD, and HEAD and CUR advanced (R181, R182). -/
def fillSlot (q : Nat) (t : TxQueue) (frame : List Byte) (s : State) : State :=
  { s with
    txq := s.txq.set q
      { t with
        slots := Table.write t.slots t.head.toNat
          ((slotAt .tx q t.slots t.head.toNat).fill frame (BitVec.ofNat 16 frame.length) reportFlags)
        head := ringAdd s.cfg.numSlots t.head 1
        cur := ringAdd s.cfg.numSlots t.head 1 } }

/-- One pass of SEND's loop from `PHASE <- EXEC` to the sleep or the end (R181): the first queue with a free slot takes the
frame, unless it is larger than a slot buffer (R183); with no free slot anywhere, one sync and the backoff wait (R184). -/
def sendAttempt (s : State) : Result :=
  match firstFree s with
  | none => .next { syncTx s with engine := .sendSleep }
  | some (q, t) =>
    if s.cfg.slotBufSize < s.fmLen.toNat then
      .next (halt .txFrameTooLarge (setResults (BitVec.ofNat 32 q) t.head s.txRounds s))
    else
      need (readSpan .fm s 0 s.fmLen.toNat) fun frame =>
      .next (finish .ok
        (setResults (BitVec.ofNat 32 q) t.head s.txRounds (syncTx (fillSlot q t frame s))))

/-- SEND (R181): `rounds <- 0` and the first attempt. -/
def execSend (s : State) : Result := sendAttempt { s with txRounds := 0 }

/-- The end of SEND's sleep (R181, R184): the round is counted, saturating at 2^32 - 1, and the loop starts again. -/
def endBackoff (s : State) : State :=
  { s with
    engine := .sendLoop
    txRounds := BitVec.ofNat 32 (min (s.txRounds.toNat + 1) 4294967295) }

/-! ### RECV -/

/-- What a drain has done so far (R186): RF, RF_LEN, `rcur` and `rn`. -/
structure Drain where
  /-- The RF buffer. -/
  rf : Memory
  /-- RF_LEN. -/
  rfLen : Word
  /-- The drain cursor. -/
  rcur : Word
  /-- The slots consumed. -/
  rn : Nat
  deriving DecidableEq, Repr

/-- How a drain ends (R186 to R188). -/
inductive DrainEnd where
  /-- A slot with MOREFRAG = 0 was appended: the frame is whole. -/
  | whole
  /-- The pending slots ran out (R188). -/
  | cut
  /-- A slot's length is above SLOT_BUF_SIZE (R187, check 1). -/
  | slotTooLong
  /-- The frame would exceed 65536 bytes (R187, check 2). -/
  | frameTooLong
  deriving DecidableEq, Repr

/-- The drain with the slot at its cursor appended to RF (R186). -/
def Drain.append (n q : Nat) (sl : Slot) (d : Drain) : Drain :=
  { rf := Table.writeRun d.rf d.rfLen.toNat (sl.bytes .rx q d.rcur.toNat sl.len.toNat)
    rfLen := BitVec.ofNat 32 (d.rfLen.toNat + sl.len.toNat)
    rcur := ringAdd n d.rcur 1
    rn := d.rn + 1 }

/-- R186's loop over at most `avail` pending slots of receive queue `q`. -/
def drain (cfg : Params) (q : Nat) (slots : Table Slot) (avail : Nat) (d : Drain) : Drain × DrainEnd :=
  match avail with
  | 0 => (d, .cut)
  | avail + 1 =>
    if cfg.slotBufSize < (slotAt .rx q slots d.rcur.toNat).len.toNat then (d, .slotTooLong)
    else if 65536 < d.rfLen.toNat + (slotAt .rx q slots d.rcur.toNat).len.toNat then (d, .frameTooLong)
    else if (slotAt .rx q slots d.rcur.toNat).flags.getLsbD 0 then
      drain cfg q slots avail (d.append cfg.numSlots q (slotAt .rx q slots d.rcur.toNat))
    else (d.append cfg.numSlots q (slotAt .rx q slots d.rcur.toNat), .whole)

/-- The state with what a drain has done. -/
def keepDrain (d : Drain) (s : State) : State :=
  { s with rf := d.rf, rfLen := d.rfLen, rcur := d.rcur, rn := d.rn }

/-- The commit (R189): HEAD and CUR of queue `q`, whose registers are `r`, get `rcur`. -/
def commit (q : Nat) (r : RxQueue) (s : State) : State :=
  { s with rxq := s.rxq.set q { r with head := s.rcur, cur := s.rcur } }

/-- How RECV ends after a drain of queue `q`, whose registers are `r` (R186 to R189, R191). A check that fails reports nothing where
RECV's read of ARG0 was UNWRITTEN_READ (R248); ARG0's mark cannot change while RECV runs (R245). -/
def endDrain (q : Nat) (r : RxQueue) (d : Drain) (how : DrainEnd) (s : State) : State :=
  match how with
  | .whole =>
    outcome s.arg0.written (finish .ok)
      (setResults (BitVec.ofNat 32 q) r.head (BitVec.ofNat 32 d.rn) (syncRx (commit q r (keepDrain d s))))
  | .cut =>
    outcome s.arg0.written
      (fun t => halt .rxPartialFrame (setResults (BitVec.ofNat 32 q) d.rcur (BitVec.ofNat 32 d.rn) t)) (keepDrain d s)
  | .slotTooLong =>
    outcome s.arg0.written
      (fun t => halt .oversizedFrame (setResults (BitVec.ofNat 32 q) d.rcur 1 t)) (keepDrain d s)
  | .frameTooLong =>
    outcome s.arg0.written
      (fun t => halt .oversizedFrame (setResults (BitVec.ofNat 32 q) d.rcur 0 t)) (keepDrain d s)

/-- `drain(q)` (R186) from the queue's HEAD over its pending slots. -/
def drainQueue (q : Nat) (r : RxQueue) (s : State) : Drain × DrainEnd :=
  drain s.cfg q r.slots (r.pending s.cfg.numSlots)
    { rf := s.rf, rfLen := s.rfLen, rcur := r.head, rn := 0 }

/-- One pass of RECV's loop from `PHASE <- EXEC` to the sleep or the end (R185). -/
def recvAttempt (s : State) : Result :=
  match firstPending s with
  | none => .next { syncRx s with engine := .recvSleep }
  | some (q, r) => .next (endDrain q r (drainQueue q r s).1 (drainQueue q r s).2 s)

/-- RECV (R185): the timeout is read, the frame, the elapsed time and the polls start at 0, and the first attempt is made. -/
def execRecv (s : State) : Result :=
  recvAttempt { recordReads s.arg0.written s with rfLen := 0, rxElapsed := 0, rxPolls := 0 }

/-- The count of failed polls as RESULT0 holds it: itself where it fits 32 bits, else a free value (R190, log 15). -/
def pollResult (s : State) : Word :=
  if s.rxPolls < 4294967296 then BitVec.ofNat 32 s.rxPolls else Config.freePollCount s.env.draws

/-- One failed poll counted: RX_ELAPSED and `rx_polls` (R185, R190). -/
def countPoll (s : State) : State :=
  { s with
    rxElapsed := s.rxElapsed + BitVec.ofNat 64 s.cfg.pollIntervalUs
    rxPolls := s.rxPolls + 1 }

/-- TIMEOUT (R190): RESULT0 is the number of failed polls. It is not reported where ARG0 was unwritten (R248). -/
def timeOut (s : State) : State :=
  outcome s.arg0.written (fun t => finish .timeout { t with result0 := pollResult t, env := t.env.drawn }) s

/-- The end of RECV's sleep (R185, R190): the poll is counted, and RECV times out once the elapsed time exceeds the timeout
(which ARG0 still holds, log 11); otherwise the loop starts again. -/
def endPoll (s : State) : State :=
  if s.arg0.value.toNat < (countPoll s).rxElapsed.toNat then timeOut (countPoll s)
  else { countPoll s with engine := .recvLoop }

end Sys2Proof.Machine
end

