-- ==== Sys2Proof/Machine/Verifier.lean ====
section
/-! DEFINITION. The Verifier's command, VERIFY (R220). -/

namespace Sys2Proof.Machine

/-- A differing byte: its offset, the expected byte of FM and the actual byte of RF (R222). -/
structure Difference where
  /-- The offset. -/
  offset : Nat
  /-- `FM[offset]`. -/
  expected : Byte
  /-- `RF[offset]`. -/
  actual : Byte
  deriving DecidableEq, Repr

/-- The first difference among the `n` bytes from offset `i` on, ascending (R220, R222): the bytes after it are not read. An
unwritten byte that is reached is UNWRITTEN_READ, FM's before RF's (R43, log 16). -/
def compareFrom (n i : Nat) (fm rf : Memory) : Except Fault (Option Difference) :=
  match n with
  | 0 => .ok none
  | n + 1 =>
    match Table.seek fm i with
    | [] => .error (.unwrittenRead .fm i)
    | e :: fm' =>
      if e.1 ≠ i then .error (.unwrittenRead .fm i)
      else
        match Table.seek rf i with
        | [] => .error (.unwrittenRead .rf i)
        | a :: rf' =>
          if a.1 ≠ i then .error (.unwrittenRead .rf i)
          else if e.2 ≠ a.2 then .ok (some { offset := i, expected := e.2, actual := a.2 })
          else compareFrom n (i + 1) fm' rf'

/-- The outcome of the content check (R222, R223). -/
def reportComparison (d : Option Difference) (s : State) : State :=
  match d with
  | none => finish .ok s
  | some d =>
    finish .contentMismatch
      (setResults (BitVec.ofNat 32 d.offset) (d.expected.setWidth 32) (d.actual.setWidth 32) s)

/-- VERIFY (R220): the lengths first (R221), then the bytes (R222). -/
def execVerify (s : State) : Result :=
  if s.fmLen ≠ s.rfLen then
    .next (finish .lengthMismatch { s with result0 := s.fmLen, result1 := s.rfLen })
  else
    need (compareFrom s.fmLen.toNat 0 s.fm s.rf) fun d =>
    .next (reportComparison d s)

end Sys2Proof.Machine
end

