-- ==== Sys2Proof/Machine/Dispatch.lean ====
section
/-! DEFINITION. One arm per command: the meaning of each (R92). -/

namespace Sys2Proof.Machine

def exec (i : Instr) (s : State) : Host.Outcome State Fault Refusal :=
  match i with
  | .csum sp => Sys2Proof.Machine.execCsum sp s
  | .wrapsum => Sys2Proof.Machine.execWrapsum s
  | .build => Sys2Proof.Machine.execBuild s
  | .send => Sys2Proof.Machine.execSend s
  | .recv => Sys2Proof.Machine.execRecv s
  | .verify => Sys2Proof.Machine.execVerify s

end Sys2Proof.Machine
end

