-- ==== Sys2Proof/Decode.lean ====
section
/-! DEFINITION. Decoding of a command word, total on every 32-bit word and rejecting by name (R96, R99), and the encoder
written from the same table (R91, R92). A command is one 32-bit word delivered whole by one register write (R90, R98). -/

namespace Sys2Proof

/-- Why a word is ILLEGAL (R96). -/
inductive DecodeError where
  /-- A bit of 31:9 is set (R94). -/
  | reservedBits
  /-- Bit 8 is set and the opcode is not CSUM's (R93). -/
  | reservedSpace
  /-- OPC is 0x00 or 0x07 to 0xFF (R92). -/
  | unknownOpcode
  deriving DecidableEq, Repr

/-- Field OPC, bits 7:0 (R91). -/
def opcField (w : Word) : Nat := w.toNat % 256

/-- Field SP, bit 8 (R91). -/
def spField (w : Word) : Nat := w.toNat / 256 % 2

/-- Bits 31:9, fields SUBR and RSV together (R91). -/
def reservedField (w : Word) : Nat := w.toNat / 512

/-- The decoder of R99, its tests in R99's order. -/
def decode (w : Word) : Except DecodeError Instr :=
  if reservedField w ≠ 0 then .error .reservedBits
  else if opcField w = 0x01 then .ok (.csum (if spField w = 0 then .fm else .rf))
  else if spField w ≠ 0 then .error .reservedSpace
  else if opcField w = 0x02 then .ok .wrapsum
  else if opcField w = 0x03 then .ok .build
  else if opcField w = 0x04 then .ok .send
  else if opcField w = 0x05 then .ok .recv
  else if opcField w = 0x06 then .ok .verify
  else .error .unknownOpcode

/-- The word of a command: format C with its reserved fields 0 (R91, R92). -/
def encode (i : Instr) : Word :=
  match i with
  | .csum .fm => 0x00000001
  | .csum .rf => 0x00000101
  | .wrapsum => 0x00000002
  | .build => 0x00000003
  | .send => 0x00000004
  | .recv => 0x00000005
  | .verify => 0x00000006

/-- The 32-bit word whose low `nbits` bits are `w`'s and whose other bits are 0: a table word as the host writes it to CMD. -/
def tableWord (nbits w : Nat) : Word := BitVec.ofNat 32 (w % 2 ^ nbits)

/-- What the decoder reads from a word of the opcode table. A command is exactly one 32-bit word (R98), so a longer one is
no command. -/
def decodeTableWord (nbits w : Nat) : Option Instr :=
  if nbits ≤ 32 then
    match decode (tableWord nbits w) with
    | .ok i => some i
    | .error _ => none
  else none

end Sys2Proof
end

