-- ==== Sys2Proof/Machine/HostBus.lean ====
section
/-! DEFINITION. The host's side of the register window and the buffers: the address map (R65 to R68), the register map (R30),
what a read returns (R40, R43, R78) and what a write does (R31, R33, R37, R41, R245). -/

namespace Sys2Proof.Machine

/-! ### The address map -/

/-- What a host access reaches (R65). -/
inductive Target where
  /-- The register at a byte offset of the register window. -/
  | register (offset : Nat)
  /-- A byte of FM or RF. -/
  | byte (sp : Space) (addr : Nat)
  deriving DecidableEq, Repr

/-- The target of an access of `width` bits, or none where R65 to R67 refuse it (R68). -/
def target (width : Nat) (addr : HostAddr) : Option Target :=
  if addr.toNat < 0x01000 then
    if width = 32 ∧ addr.toNat % 4 = 0 then some (.register addr.toNat) else none
  else if addr.toNat < 0x10000 then none
  else if addr.toNat < 0x20000 then
    if width = 8 then some (.byte .fm (addr.toNat - 0x10000)) else none
  else if addr.toNat < 0x30000 then
    if width = 8 then some (.byte .rf (addr.toNat - 0x20000)) else none
  else none

/-! ### The register map -/

/-- The registers of R30's table. -/
inductive RegName where
  /-- CMD. -/
  | cmd
  /-- STATUS. -/
  | status
  /-- ARG0. -/
  | arg0
  /-- ARG1. -/
  | arg1
  /-- ACC. -/
  | acc
  /-- RESULT0. -/
  | result0
  /-- RESULT1. -/
  | result1
  /-- RESULT2. -/
  | result2
  /-- DST_MAC_HI. -/
  | dstMacHi
  /-- DST_MAC_LO. -/
  | dstMacLo
  /-- SRC_MAC_HI. -/
  | srcMacHi
  /-- SRC_MAC_LO. -/
  | srcMacLo
  /-- SRC_IP. -/
  | srcIp
  /-- DST_IP. -/
  | dstIp
  /-- SRC_PORT. -/
  | srcPort
  /-- DST_PORT. -/
  | dstPort
  /-- FILLER. -/
  | filler
  /-- FRAME_LEN. -/
  | frameLen
  /-- FM_LEN. -/
  | fmLen
  /-- RF_LEN. -/
  | rfLen
  /-- RX_ELAPSED_LO. -/
  | rxElapsedLo
  /-- RX_ELAPSED_HI. -/
  | rxElapsedHi
  /-- CFG_QUEUES. -/
  | cfgQueues
  /-- CFG_SLOTS. -/
  | cfgSlots
  /-- CFG_SLOT_BUF. -/
  | cfgSlotBuf
  /-- CFG_POLL_US. -/
  | cfgPollUs
  /-- CFG_BACKOFF_US. -/
  | cfgBackoffUs
  /-- CFG_TTL. -/
  | cfgTtl
  /-- TXQ[q].HEAD. -/
  | txHead (q : Nat)
  /-- TXQ[q].CUR. -/
  | txCur (q : Nat)
  /-- TXQ[q].TAIL. -/
  | txTail (q : Nat)
  /-- RXQ[q].HEAD. -/
  | rxHead (q : Nat)
  /-- RXQ[q].CUR. -/
  | rxCur (q : Nat)
  /-- RXQ[q].TAIL. -/
  | rxTail (q : Nat)
  /-- A reserved offset. -/
  | reserved
  deriving DecidableEq, Repr

/-- The registers below 0x070, by offset (R30). -/
def namedRegs : List (Nat × RegName) :=
  [(0x000, .cmd), (0x004, .status), (0x008, .arg0), (0x00C, .arg1), (0x010, .acc), (0x014, .result0), (0x018, .result1),
   (0x01C, .result2), (0x020, .dstMacHi), (0x024, .dstMacLo), (0x028, .srcMacHi), (0x02C, .srcMacLo), (0x030, .srcIp),
   (0x034, .dstIp)] ++
  [(0x038, .srcPort), (0x03C, .dstPort), (0x040, .filler), (0x044, .frameLen), (0x048, .fmLen), (0x04C, .rfLen),
   (0x050, .rxElapsedLo), (0x054, .rxElapsedHi), (0x058, .cfgQueues), (0x05C, .cfgSlots), (0x060, .cfgSlotBuf),
   (0x064, .cfgPollUs), (0x068, .cfgBackoffUs), (0x06C, .cfgTtl)]

/-- The queue pointer registers, 0x100 + 0x10 q for TXQ[q] and 0x500 + 0x10 q for RXQ[q] (R30). -/
def queueReg (offset : Nat) : RegName :=
  if 0x100 ≤ offset ∧ offset < 0x500 then
    if offset % 0x10 = 0x0 then .txHead ((offset - 0x100) / 0x10)
    else if offset % 0x10 = 0x4 then .txCur ((offset - 0x100) / 0x10)
    else if offset % 0x10 = 0x8 then .txTail ((offset - 0x100) / 0x10)
    else .reserved
  else if 0x500 ≤ offset ∧ offset < 0x900 then
    if offset % 0x10 = 0x0 then .rxHead ((offset - 0x500) / 0x10)
    else if offset % 0x10 = 0x4 then .rxCur ((offset - 0x500) / 0x10)
    else if offset % 0x10 = 0x8 then .rxTail ((offset - 0x500) / 0x10)
    else .reserved
  else .reserved

/-- The register at a byte offset of the window (R30). -/
def regAt (offset : Nat) : RegName :=
  match namedRegs.lookup offset with
  | some n => n
  | none => queueReg offset

/-! ### Reads -/

/-- What the host reads of a register with a written-mark: its value, bits above its width 0; where the mark is clear, any
value in the register's own bits (R33, R43, R281). -/
def Reg.hostValue {w : Nat} (r : Reg w) (draw : Nat) : Word :=
  if r.written then r.value.setWidth 32 else ((Config.freeRead draw).setWidth w).setWidth 32

/-- A pointer of transmit queue `q`; 0 where there is no such queue (R30). -/
def txPointer (f : TxQueue → Word) (q : Nat) (s : State) : Word :=
  match s.txq[q]? with
  | some t => f t
  | none => 0

/-- A pointer of receive queue `q`; 0 where there is no such queue (R30). -/
def rxPointer (f : RxQueue → Word) (q : Nat) (s : State) : Word :=
  match s.rxq[q]? with
  | some r => f r
  | none => 0

/-- What the host's read of a TAIL offset returns, for a queue with that TAIL: TAIL where the chip lets the host read it (R30, R39, R252,
V-Z11), and any value, which says nothing of TAIL, where it does not (R84's first sentence, D44). DESIGN CHOICE, safe, log 25. -/
def hostTail (tail : Word) (s : State) : Word := if s.cfg.hostReadsTail then tail else Config.freeRead s.env.draws

/-- What a register holds for the host while the engine is idle (R30). -/
def regValue (n : RegName) (s : State) : Word :=
  match n with
  | .cmd => s.cmd
  | .status => statusWord s
  | .arg0 => s.arg0.hostValue s.env.draws
  | .arg1 => s.arg1.hostValue s.env.draws
  | .acc => s.acc.hostValue s.env.draws
  | .result0 => s.result0
  | .result1 => s.result1
  | .result2 => s.result2
  | .dstMacHi => s.spec.dstMacHi.hostValue s.env.draws
  | .dstMacLo => s.spec.dstMacLo.hostValue s.env.draws
  | .srcMacHi => s.spec.srcMacHi.hostValue s.env.draws
  | .srcMacLo => s.spec.srcMacLo.hostValue s.env.draws
  | .srcIp => s.spec.srcIp.hostValue s.env.draws
  | .dstIp => s.spec.dstIp.hostValue s.env.draws
  | .srcPort => s.spec.srcPort.hostValue s.env.draws
  | .dstPort => s.spec.dstPort.hostValue s.env.draws
  | .filler => s.spec.filler.hostValue s.env.draws
  | .frameLen => s.spec.frameLen.hostValue s.env.draws
  | .fmLen => s.fmLen
  | .rfLen => s.rfLen
  | .rxElapsedLo => s.rxElapsed.extractLsb' 0 32
  | .rxElapsedHi => s.rxElapsed.extractLsb' 32 32
  | .cfgQueues => BitVec.ofNat 32 (s.cfg.numTxQueues % 65536 + 65536 * (s.cfg.numRxQueues % 65536))
  | .cfgSlots => BitVec.ofNat 32 s.cfg.numSlots
  | .cfgSlotBuf => BitVec.ofNat 32 s.cfg.slotBufSize
  | .cfgPollUs => BitVec.ofNat 32 s.cfg.pollIntervalUs
  | .cfgBackoffUs => BitVec.ofNat 32 s.cfg.txBackoffUs
  | .cfgTtl => BitVec.ofNat 32 (s.cfg.ipTtl % 256)
  | .txHead q => txPointer TxQueue.head q s
  | .txCur q => txPointer TxQueue.cur q s
  | .txTail q => txPointer (fun t => hostTail t.tail s) q s
  | .rxHead q => rxPointer RxQueue.head q s
  | .rxCur q => rxPointer RxQueue.cur q s
  | .rxTail q => rxPointer (fun r => hostTail r.tail s) q s
  | .reserved => 0

/-- What a register read returns: STATUS exactly at any time, every other register any value while the engine is busy (R78). -/
def readReg (n : RegName) (s : State) : Word :=
  if n = .status then statusWord s
  else if s.busy then Config.freeRead s.env.draws
  else regValue n s

/-- What a byte read of FM or RF returns: any byte while the engine is busy or where the mark is clear (R43, R78). -/
def readByte (sp : Space) (addr : Nat) (s : State) : Byte :=
  if s.busy then (Config.freeRead s.env.draws).setWidth 8
  else
    match Table.read (s.memory sp) addr with
    | some b => b
    | none => (Config.freeRead s.env.draws).setWidth 8

/-- What a read of a target returns. -/
def readTarget (t : Target) (s : State) : Word :=
  match t with
  | .register offset => readReg (regAt offset) s
  | .byte sp addr => (readByte sp addr s).setWidth 32

/-- A host read: the value goes to the host, the block is unchanged (R73); a refused access is HOST_ACCESS_REFUSED (R68). -/
def hostRead (width : Nat) (addr : HostAddr) (s : State) : Result :=
  match target width addr with
  | none => .refused (.hostAccessRefused width addr)
  | some t => .next { s with env := { s.env.drawn with readData := readTarget t s } }

/-! ### Writes -/

/-- A write to an RW register or a buffer byte: it makes the state `t` while the engine is idle and not halted; otherwise it is
ignored and sets OVERRUN (R67, R245). -/
def guardWrite (s t : State) : State := if s.accepting then t else setOverrun s

/-- A command issue (R31, R245): an accepted legal word starts its command, an accepted illegal one finishes at once with
ILLEGAL_COMMAND (R246). -/
def issue (w : Word) (s : State) : State :=
  match decode w with
  | .ok _ => accept w s
  | .error _ => finish .illegalCommand (accept w s)

/-- FM_LEN and RF_LEN keep their value when a value above 65536 is written (R37). -/
def legalLen (v old : Word) : Word := if v.toNat ≤ 65536 then v else old

/-- A write of a register by the host (R30, R31, R33, R37, R40, R41). -/
def writeReg (n : RegName) (v : Word) (s : State) : State :=
  match n with
  | .cmd => guardWrite s (issue v s)
  | .status => s
  | .arg0 => guardWrite s { s with arg0 := Reg.set v }
  | .arg1 => guardWrite s { s with arg1 := Reg.set v }
  | .acc => guardWrite s { s with acc := Reg.set v }
  | .result0 => s
  | .result1 => s
  | .result2 => s
  | .dstMacHi => guardWrite s { s with spec := { s.spec with dstMacHi := Reg.set (v.setWidth 16) } }
  | .dstMacLo => guardWrite s { s with spec := { s.spec with dstMacLo := Reg.set v } }
  | .srcMacHi => guardWrite s { s with spec := { s.spec with srcMacHi := Reg.set (v.setWidth 16) } }
  | .srcMacLo => guardWrite s { s with spec := { s.spec with srcMacLo := Reg.set v } }
  | .srcIp => guardWrite s { s with spec := { s.spec with srcIp := Reg.set v } }
  | .dstIp => guardWrite s { s with spec := { s.spec with dstIp := Reg.set v } }
  | .srcPort => guardWrite s { s with spec := { s.spec with srcPort := Reg.set (v.setWidth 16) } }
  | .dstPort => guardWrite s { s with spec := { s.spec with dstPort := Reg.set (v.setWidth 16) } }
  | .filler => guardWrite s { s with spec := { s.spec with filler := Reg.set (v.setWidth 8) } }
  | .frameLen => guardWrite s { s with spec := { s.spec with frameLen := Reg.set v } }
  | .fmLen => guardWrite s { s with fmLen := legalLen v s.fmLen }
  | .rfLen => guardWrite s { s with rfLen := legalLen v s.rfLen }
  | .rxElapsedLo => s
  | .rxElapsedHi => s
  | .cfgQueues => s
  | .cfgSlots => s
  | .cfgSlotBuf => s
  | .cfgPollUs => s
  | .cfgBackoffUs => s
  | .cfgTtl => s
  | .txHead _ => s
  | .txCur _ => s
  | .txTail _ => s
  | .rxHead _ => s
  | .rxCur _ => s
  | .rxTail _ => s
  | .reserved => s

/-- A write to a target. -/
def writeTarget (t : Target) (v : Word) (s : State) : State :=
  match t with
  | .register offset => writeReg (regAt offset) v s
  | .byte sp addr => guardWrite s (s.writeByte sp addr (v.setWidth 8))

/-- A host write; a refused access is HOST_ACCESS_REFUSED (R68). -/
def hostWrite (width : Nat) (addr : HostAddr) (v : Word) (s : State) : Result :=
  match target width addr with
  | none => .refused (.hostAccessRefused width addr)
  | some t => .next (writeTarget t v s)

end Sys2Proof.Machine
end

