-- ==== Sys2Proof/Machine/Engine.lean ====
section
/-! DEFINITION. Who moves next and what it does: one step of the engine (R24, R76), one action of the host (R101, R280), and
the placing of a command word where the engine runs it next. -/

namespace Sys2Proof.Machine

/-- The first step of an accepted command: the word in CMD is decoded and run (R245); an illegal word finishes (R246). -/
def runCommand (s : State) : Result :=
  match decode s.cmd with
  | .ok i => exec i s
  | .error _ => .next (finish .illegalCommand s)

/-- One step of the engine from where it stands. An idle engine waits (R283): nothing changes. -/
def engineStep (s : State) : Result :=
  match s.engine with
  | .idle => .next s
  | .start => runCommand s
  | .sendLoop => sendAttempt s
  | .sendSleep => .next (endBackoff s)
  | .recvLoop => recvAttempt s
  | .recvSleep => .next (endPoll s)

/-- The host has performed `op`; `rest` is left of its stream. -/
def State.performed (s : State) (op : HostOp) (rest : List HostOp) : State :=
  { s with env := { s.env with host := rest, lastOp := some op } }

/-- The state with `rest` left of the host's stream and no operation performed. -/
def State.withStream (s : State) (rest : List HostOp) : State :=
  { s with env := { s.env with host := rest } }

/-- The head `op` of the host's stream is performed, `rest` being left (R101, log 1): `wait` leaves the step to the engine
until BUSY = 0, `pass` leaves one step to it. -/
def hostStep (op : HostOp) (rest : List HostOp) (s : State) : Result :=
  match op with
  | .read width addr => hostRead width addr (s.performed op rest)
  | .write width addr v => hostWrite width addr v (s.performed op rest)
  | .wait => if s.busy then engineStep s else .next (s.performed op rest)
  | .pass => engineStep (s.withStream rest)
  | .reset => .next (resetBlock (s.performed op rest))

/-- One step of the machine: the host's next operation, or the engine once the stream is empty. -/
def machineStep (s : State) : Result :=
  match s.env.host with
  | [] => engineStep s
  | op :: rest => hostStep op rest s

/-- The state in which word `w` has just been accepted and the next step is the engine's (log 1). -/
def placeCommand (w : Word) (s : State) : State :=
  (accept w s).withStream (.pass :: s.env.host)

end Sys2Proof.Machine
end

