-- ==== Sys2Proof/Machine/Step.lean ====
section
/-! DEFINITION. The step of the machine, and the placing of an opcode-table word where the next step runs it. -/

namespace Sys2Proof.Machine

/-- One step: the host's next operation or the engine's next step (Engine.lean). -/
def step (s : State) : Host.Outcome State Fault Refusal := Sys2Proof.Machine.machineStep s

/-- The state in which the command word `w` of `nbits` bits has just been accepted, as by a host write to CMD, so that the very
next step runs it (R31, R241; log 1). -/
def State.withFetchWord (s : State) (nbits w : Nat) : State :=
  Sys2Proof.Machine.placeCommand (Sys2Proof.tableWord nbits w) s

end Sys2Proof.Machine
end

