-- ==== Sys2Proof/Machine/HostStream.lean ====
section
/-! DEFINITION. The notation for host command streams (R100 to R102) and what each line expands to: host operations of
`Env.host`. A `sub:` line of R101 is no host action; it is an entry of `Env.txScript` or `Env.rxScript`. -/

namespace Sys2Proof.Machine

/-- The text of an engine command (R100). -/
def asmText (i : Instr) : String :=
  match i with
  | .csum .fm => "csum fm"
  | .csum .rf => "csum rf"
  | .wrapsum => "wrapsum"
  | .build => "build"
  | .send => "send"
  | .recv => "recv"
  | .verify => "verify"

/-- The byte offset of a register (R30); a reserved register is taken at 0x070, the first reserved offset. -/
def regOffset (n : RegName) : Nat :=
  match n with
  | .cmd => 0x000
  | .status => 0x004
  | .arg0 => 0x008
  | .arg1 => 0x00C
  | .acc => 0x010
  | .result0 => 0x014
  | .result1 => 0x018
  | .result2 => 0x01C
  | .dstMacHi => 0x020
  | .dstMacLo => 0x024
  | .srcMacHi => 0x028
  | .srcMacLo => 0x02C
  | .srcIp => 0x030
  | .dstIp => 0x034
  | .srcPort => 0x038
  | .dstPort => 0x03C
  | .filler => 0x040
  | .frameLen => 0x044
  | .fmLen => 0x048
  | .rfLen => 0x04C
  | .rxElapsedLo => 0x050
  | .rxElapsedHi => 0x054
  | .cfgQueues => 0x058
  | .cfgSlots => 0x05C
  | .cfgSlotBuf => 0x060
  | .cfgPollUs => 0x064
  | .cfgBackoffUs => 0x068
  | .cfgTtl => 0x06C
  | .txHead q => 0x100 + 0x10 * q
  | .txCur q => 0x104 + 0x10 * q
  | .txTail q => 0x108 + 0x10 * q
  | .rxHead q => 0x500 + 0x10 * q
  | .rxCur q => 0x504 + 0x10 * q
  | .rxTail q => 0x508 + 0x10 * q
  | .reserved => 0x070

/-- The host address of a buffer byte (R65, R101). -/
def byteAddr (sp : Space) (a : Nat) : HostAddr :=
  match sp with
  | .fm => BitVec.ofNat 18 (0x10000 + a)
  | .rf => BitVec.ofNat 18 (0x20000 + a)

/-- A line of a host command stream (R100 to R102). -/
inductive HostLine where
  /-- `wr NAME, v`. -/
  | wr (n : RegName) (v : Word)
  /-- `rd NAME`. -/
  | rd (n : RegName)
  /-- `wrb S, a, v`. -/
  | wrb (sp : Space) (a : Nat) (v : Byte)
  /-- `rdb S, a`. -/
  | rdb (sp : Space) (a : Nat)
  /-- `wait`. -/
  | wait
  /-- An engine command, written to CMD. -/
  | command (i : Instr)
  /-- `seed v`. -/
  | seed (v : Word)
  /-- `csum.span S, off, n`. -/
  | csumSpan (sp : Space) (off n : Word)
  /-- `recv.t t`. -/
  | recvT (t : Word)
  /-- `mac.dst m0:m1:m2:m3:m4:m5`. -/
  | macDst (m0 m1 m2 m3 m4 m5 : Byte)
  /-- `mac.src m0:m1:m2:m3:m4:m5`. -/
  | macSrc (m0 m1 m2 m3 m4 m5 : Byte)
  /-- `ip.src a.b.c.d`. -/
  | ipSrc (a b c d : Byte)
  /-- `ip.dst a.b.c.d`. -/
  | ipDst (a b c d : Byte)
  /-- `do c`. -/
  | doCommand (i : Instr)
  deriving DecidableEq, Repr

/-- A 32-bit host write of a register. -/
def wrOp (n : RegName) (v : Word) : HostOp := .write 32 (BitVec.ofNat 18 (regOffset n)) v

/-- A command word written to CMD (R100). -/
def commandOp (i : Instr) : HostOp := wrOp .cmd (encode i)

/-- Two octets as a register value, `m0 * 256 + m1` (R102). -/
def pair (m0 m1 : Byte) : Word := BitVec.ofNat 32 (m0.toNat * 256 + m1.toNat)

/-- Four octets as a register value, the first in bits 31:24 (R102). -/
def quad (a b c d : Byte) : Word :=
  BitVec.ofNat 32 (a.toNat * 16777216 + b.toNat * 65536 + c.toNat * 256 + d.toNat)

/-- What a line expands to (R101, R102). -/
def HostLine.expand (l : HostLine) : List HostOp :=
  match l with
  | .wr n v => [wrOp n v]
  | .rd n => [.read 32 (BitVec.ofNat 18 (regOffset n))]
  | .wrb sp a v => [.write 8 (byteAddr sp a) (v.setWidth 32)]
  | .rdb sp a => [.read 8 (byteAddr sp a)]
  | .wait => [.wait]
  | .command i => [commandOp i]
  | .seed v => [wrOp .acc v]
  | .csumSpan sp off n => [wrOp .arg0 off, wrOp .arg1 n, commandOp (.csum sp), .wait]
  | .recvT t => [wrOp .arg0 t, commandOp .recv, .wait]
  | .macDst m0 m1 m2 m3 m4 m5 => [wrOp .dstMacHi (pair m0 m1), wrOp .dstMacLo (quad m2 m3 m4 m5)]
  | .macSrc m0 m1 m2 m3 m4 m5 => [wrOp .srcMacHi (pair m0 m1), wrOp .srcMacLo (quad m2 m3 m4 m5)]
  | .ipSrc a b c d => [wrOp .srcIp (quad a b c d)]
  | .ipDst a b c d => [wrOp .dstIp (quad a b c d)]
  | .doCommand i => [commandOp i, .wait]

/-- The host operations of a stream of lines. -/
def expandStream (ls : List HostLine) : List HostOp := ls.flatMap HostLine.expand

end Sys2Proof.Machine
end

