-- ==== Sys2Proof/WellFormed.lean ====
section
/-! DEFINITION. Well-formedness. An instruction has no field a check could refuse: SP is one of two spaces and every other
field of format C is fixed (R91, R94), so every term of `Instr` is well formed. The checks of this file are those of the
parameters, each within its legal range (R10). -/

namespace Sys2Proof

/-- Every command is well formed: its one field, SP, takes both of its values (R93). -/
def Instr.wellFormed (i : Instr) : Bool :=
  match i with
  | .csum .fm => true
  | .csum .rf => true
  | .wrapsum => true
  | .build => true
  | .send => true
  | .recv => true
  | .verify => true

/-- The legal ranges of R10's table, one conjunct per parameter. -/
abbrev Params.legal (p : Params) : Prop :=
  (1 ≤ p.numTxQueues ∧ p.numTxQueues ≤ 64) ∧
  (1 ≤ p.numRxQueues ∧ p.numRxQueues ≤ 64) ∧
  (2 ≤ p.numSlots ∧ p.numSlots ≤ 65536) ∧
  (1 ≤ p.slotBufSize ∧ p.slotBufSize ≤ 65535) ∧
  (1 ≤ p.pollIntervalUs ∧ p.pollIntervalUs ≤ 4294967295) ∧
  (1 ≤ p.txBackoffUs ∧ p.txBackoffUs ≤ 4294967295) ∧
  p.ipTtl ≤ 255

end Sys2Proof
end

