-- ==== Sys2Proof/Safety.lean ====
section
/-! DEFINITION. What counts as a safe run (R293), the invariants of the machine's state, and the textbook functions the claims
compare the engine with (R115, R118). -/

namespace Sys2Proof.Machine

/-! ### The end of a run -/

/-- The operation is a write to CMD. -/
def HostOp.isCmdWrite (op : HostOp) : Bool :=
  match op with
  | .write width addr _ => target width addr = some (.register 0)
  | .read _ _ => false
  | .wait => false
  | .pass => false
  | .reset => false

/-- A run has ended (R293): the stream is done, its last operation was not a CMD write, and the engine is IDLE. R293 speaks only
of the last operation of the stream; that a run with no host operation of its own since its reset (an empty stream, or a stream
whose last operation was the reset) counts as ended is the model's choice (DESIGN CHOICE, unsafe, log 23). -/
def State.ended (s : State) : Bool :=
  s.env.host = [] && s.engine = .idle &&
    (match s.env.lastOp with
     | some op => !op.isCmdWrite
     | none => true)

/-- An ended run is successful (R293): FATAL and OVERRUN are 0 and no model fault has been recorded. A fault or a refusal that stops
the machine is no state, so no run with one ends here. -/
def State.successful (s : State) : Bool := s.ended && !s.fatal && !s.overrun && !s.faulted

/-! ### What the host does meanwhile -/

/-- The host leaves the step to a busy engine: it has nothing to do, or it waits for BUSY = 0 (R101 `wait`). -/
abbrev State.hostWaits (s : State) : Prop := s.env.host.head? = none ∨ s.env.host.head? = some .wait

/-- A host access R65 to R67 allow: an aligned 32-bit access to the register window, or an 8-bit access to FM or RF. -/
abbrev legalAccess (width : Nat) (addr : HostAddr) : Prop :=
  (addr.toNat < 0x01000 ∧ width = 32 ∧ addr.toNat % 4 = 0) ∨ (0x10000 ≤ addr.toNat ∧ addr.toNat < 0x30000 ∧ width = 8)

/-- A host write that R245 ignores, setting OVERRUN, while the engine is busy or halted: to a buffer byte, to CMD or to an RW
register of R30. -/
abbrev guardedWrite (width : Nat) (addr : HostAddr) : Prop :=
  (width = 8 ∧ 0x10000 ≤ addr.toNat ∧ addr.toNat < 0x30000) ∨
  (width = 32 ∧ addr.toNat ∈
    [0x000, 0x008, 0x00C, 0x010, 0x020, 0x024, 0x028, 0x02C, 0x030, 0x034, 0x038, 0x03C, 0x040, 0x044, 0x048, 0x04C])

/-! ### The passes of SEND and RECV (log 10) -/

/-- `u` is what a pass of SEND from `s` answers, with `n` failed rounds behind it: its first pass as a command (R181), or a later
one, the step at `loop:` while the host waits. -/
def State.sendPass (s : State) (n : Word) (u : State) : Prop :=
  (exec .send s = .next u ∧ n = 0) ∨ (s.engine = .sendLoop ∧ s.hostWaits ∧ step s = .next u ∧ n = s.txRounds)

/-- Both passes of SEND from `s`, the first and a later one, go on to a state with `P`, given the failed rounds before it. -/
def State.sendLeaves (s : State) (P : Word → State → Prop) : Prop :=
  (∃ u, exec .send s = .next u ∧ P 0 u) ∧
  (s.engine = .sendLoop → s.hostWaits → ∃ u, step s = .next u ∧ P s.txRounds u)

/-- What a pass of RECV starts from: RX_ELAPSED, the failed polls so far, and whether the run is faulted. -/
structure RecvStart where
  /-- RX_ELAPSED. -/
  elapsed : BitVec 64
  /-- The failed polls. -/
  polls : Nat
  /-- The run is faulted. -/
  faulted : Bool
  deriving DecidableEq, Repr

/-- What RECV's first pass from `s` starts from (R185): the timeout has been read, nothing has been waited. -/
def State.recvFirst (s : State) : RecvStart := { elapsed := 0, polls := 0, faulted := s.faulted || !s.arg0.written }

/-- What a later pass of RECV from `s` starts from. -/
def State.recvLater (s : State) : RecvStart := { elapsed := s.rxElapsed, polls := s.rxPolls, faulted := s.faulted }

/-- `u` is what a pass of RECV from `s`, started from `b`, answers: its first pass as a command (R185), or a later one, the step at
`loop:` while the host waits. -/
def State.recvPass (s : State) (b : RecvStart) (u : State) : Prop :=
  (exec .recv s = .next u ∧ b = s.recvFirst) ∨
  (s.engine = .recvLoop ∧ s.hostWaits ∧ step s = .next u ∧ b = s.recvLater)

/-- Both passes of RECV from `s` go on to a state with `P`, given what they start from: the first, and a later one with RF_LEN still
0 (R185; `lengthsInv`). -/
def State.recvLeaves (s : State) (P : RecvStart → State → Prop) : Prop :=
  (∃ u, exec .recv s = .next u ∧ P s.recvFirst u) ∧
  (s.engine = .recvLoop → s.hostWaits → s.rfLen = 0 → ∃ u, step s = .next u ∧ P s.recvLater u)

/-! ### Invariants -/

/-- A transmit queue of a block with parameters `p`: CUR = HEAD (R39), HWCUR = HEAD between engine steps (every advance of HEAD
is followed by its sync, R181), every pointer a slot index (R39), every listed slot in range and in canonical form. -/
abbrev TxQueue.inv (p : Params) (t : TxQueue) : Prop :=
  t.cur = t.head ∧ t.hwcur = t.head ∧ t.head.toNat < p.numSlots ∧ t.tail.toNat < p.numSlots ∧
  Table.wf p.numSlots t.slots ∧ ∀ c ∈ t.slots, Memory.wf p.slotBufSize c.2.buf

/-- A receive queue of a block with parameters `p`. -/
abbrev RxQueue.inv (p : Params) (r : RxQueue) : Prop :=
  r.cur = r.head ∧ r.head.toNat < p.numSlots ∧ r.tail.toNat < p.numSlots ∧
  Table.wf p.numSlots r.slots ∧ ∀ c ∈ r.slots, Memory.wf p.slotBufSize c.2.buf

/-- The rings (R39, R174): legal parameters, as many queues as they say, and every queue's invariant. -/
abbrev State.ringsInv (s : State) : Prop :=
  s.cfg.legal ∧ s.txq.length = s.cfg.numTxQueues ∧ s.rxq.length = s.cfg.numRxQueues ∧
  (∀ t ∈ s.txq, t.inv s.cfg) ∧ ∀ r ∈ s.rxq, r.inv s.cfg

/-- The buffers are in canonical form and within their 65536 bytes (R61, R62). -/
abbrev State.buffersInv (s : State) : Prop := Memory.wf 65536 s.fm ∧ Memory.wf 65536 s.rf

/-- The lengths are legal (R37); FM_LEN is unspecified in a halted engine (R142); RF_LEN is 0 from RECV's start to its drain
(R185). -/
abbrev State.lengthsInv (s : State) : Prop :=
  (s.fatal = false → s.fmLen.toNat ≤ 65536) ∧ s.rfLen.toNat ≤ 65536 ∧
  (s.engine = .recvLoop ∨ s.engine = .recvSleep → s.rfLen = 0)

/-- The command the engine is in the middle of is the one in CMD. -/
def State.engineInv (s : State) : Bool :=
  match s.engine with
  | .idle => true
  | .start => (decode s.cmd).toBool
  | .sendLoop => (decode s.cmd).toOption = some .send
  | .sendSleep => (decode s.cmd).toOption = some .send
  | .recvLoop => (decode s.cmd).toOption = some .recv
  | .recvSleep => (decode s.cmd).toOption = some .recv

/-- STATUS is consistent (R24, R32, R243): a halted engine is idle, a busy one shows DONE = 0 and CODE = 0, and FATAL is set
exactly when the code is a fatal one. -/
abbrev State.statusInv (s : State) : Prop :=
  (s.fatal = true → s.engine = .idle) ∧
  (s.engine ≠ .idle → s.done = false ∧ s.code = .ok) ∧
  s.fatal = s.code.isFatal ∧
  s.engineInv = true

/-- Slot `i` of receive queue `r` holds what the substrate wrote: its length and flags, and every byte its length and the slot
buffer take (R178, R282). -/
abbrev RxQueue.slotWritten (p : Params) (r : RxQueue) (i : Nat) : Prop :=
  ∃ sl, Table.read r.slots i = some sl ∧
    ∀ j < min sl.len.toNat p.slotBufSize, (Table.read sl.buf j).isSome

/-- Every pending slot has been written by the substrate (R282). -/
def State.pendingInv (s : State) : Prop :=
  ∀ r ∈ s.rxq, ∀ j < r.pending s.cfg.numSlots,
    r.slotWritten s.cfg (ringAdd s.cfg.numSlots r.head j).toNat

/-- The byte of FM or RF at `a`, if it has been written. -/
def State.byteAt (s : State) (sp : Space) (a : Nat) : Option Byte := Table.read (s.memory sp) a

/-- The bytes `d` stand written in a buffer from `off` on. -/
abbrev State.holds (s : State) (sp : Space) (off : Nat) (d : List Byte) : Prop :=
  ∀ i < d.length, s.byteAt sp (off + i) = d[i]?

/-- The `n` bytes of FM from `off` on, an unwritten one taken as 0. -/
def State.fmSpan (s : State) (off n : Nat) : List Byte :=
  (List.range n).map fun i => (s.byteAt .fm (off + i)).getD 0

/-- Slot `i` of receive queue `r` is listed with the bytes `d`, as many as its length says, and MOREFRAG as `more` says. -/
def RxQueue.slotIs (r : RxQueue) (i : Nat) (d : List Byte) (more : Bool) : Prop :=
  ∃ sl, Table.read r.slots i = some sl ∧ sl.len.toNat = d.length ∧ sl.flags.getLsbD 0 = more ∧
    ∀ j < d.length, Table.read sl.buf j = d[j]?

/-- The pending slots of receive queue `r` begin with slots that hold `ds`, every one with MOREFRAG = 1 (R193). -/
def RxQueue.fragments (p : Params) (r : RxQueue) (ds : List (List Byte)) : Prop :=
  ∀ (i : Nat) (d : List Byte), ds[i]? = some d →
    r.slotIs (ringAdd p.numSlots r.head i).toNat d true ∧ d.length ≤ p.slotBufSize

/-! ### Textbook functions -/

/-- The integer sum of the big-endian words of `d`, an odd last byte padded with a zero low byte (R115). -/
def wordSum (d : List Byte) : Nat :=
  match d with
  | [] => 0
  | [a] => a.toNat * 256
  | a :: b :: rest => a.toNat * 256 + b.toNat + wordSum rest

/-- Carries folded end-around until the sum fits 16 bits, at most `fuel` times (R118). -/
def foldCarries (fuel n : Nat) : Nat :=
  match fuel with
  | 0 => n
  | fuel + 1 => if n ≤ 0xFFFF then n else foldCarries fuel (n % 65536 + n / 65536)

/-- The Internet checksum of RFC 1071 as R118 defines it. -/
def rfc1071 (d : List Byte) : Half := ~~~ BitVec.ofNat 16 (foldCarries (wordSum d) (wordSum d))

end Sys2Proof.Machine
end

