-- ==== Sys2Proof/Certificates/Slice0/Obligations.lean ====
section
/-! DEFINITION. The statements for the provers, each with the rule of the spec it formalises. -/

open Sys2Proof Sys2Proof.Machine

/-! ### Decoding (30_encoding.md) -/

/-- R92, R99: decoding answers a command exactly on that command's one word, and the words are the seven of R92's table. -/
def Obligations.DecodeAcceptsExactlyTheSevenWords : Prop :=
  (∀ (w : Word) (i : Instr), decode w = .ok i ↔ w = encode i) ∧
  encode (.csum .fm) = 0x00000001 ∧ encode (.csum .rf) = 0x00000101 ∧ encode .wrapsum = 0x00000002 ∧
  encode .build = 0x00000003 ∧ encode .send = 0x00000004 ∧ encode .recv = 0x00000005 ∧ encode .verify = 0x00000006

/-- R96: exactly when a word is illegal. -/
def Obligations.IllegalWordsAreTheReservedOnes : Prop :=
  ∀ w : Word,
    (∃ e, decode w = .error e) ↔
      (w.extractLsb' 0 8 = 0x00 ∨ 0x07 ≤ (w.extractLsb' 0 8).toNat ∨ w.extractLsb' 9 23 ≠ 0 ∨
        (w.getLsbD 8 = true ∧ w.extractLsb' 0 8 ≠ 0x01))

/-- R92: a few table words, written out from the encoding, and what they decode to. -/
def Obligations.TableWordsDecode : Prop :=
  decodeTableWord 32 0b00000000000000000000000000000001 = some (.csum .fm) ∧
  decodeTableWord 32 0b00000000000000000000000100000001 = some (.csum .rf) ∧
  decodeTableWord 32 0b00000000000000000000000000000011 = some .build ∧
  decodeTableWord 32 0b00000000000000000000000000000100 = some .send ∧
  decodeTableWord 32 0b00000000000000000000000000000110 = some .verify ∧
  decodeTableWord 32 0b00000000000000000000000100000010 = none

/-! ### Acceptance and the step (10_state.md, 60_exceptions.md) -/

/-- R31, R241: a CMD write of a legal word while the engine is idle and not halted starts the command. -/
def Obligations.LegalCmdWriteStartsTheCommand : Prop :=
  ∀ (s : State) (w : Word) (i : Instr) (rest : List HostOp),
    s.engine = .idle → s.fatal = false → decode w = .ok i → s.env.host = .write 32 0 w :: rest →
    step s = .next { s with
      cmd := w, engine := .start, done := false, code := .ok, result0 := 0, result1 := 0, result2 := 0
      env := { s.env with host := rest, lastOp := some (.write 32 0 w) } }

/-- R246: an accepted illegal word finishes at once with ILLEGAL_COMMAND and changes nothing else. -/
def Obligations.IllegalCmdWriteFinishesAtOnce : Prop :=
  ∀ (s : State) (w : Word) (e : DecodeError) (rest : List HostOp),
    s.engine = .idle → s.fatal = false → decode w = .error e → s.env.host = .write 32 0 w :: rest →
    step s = .next { s with
      cmd := w, engine := .idle, done := true, code := .illegalCommand, result0 := 0, result1 := 0, result2 := 0
      env := { s.env with host := rest, lastOp := some (.write 32 0 w) } }

/-- R22, R245: the step after acceptance runs the decoded command: `exec` of it at that state. While the host waits or has
nothing to do the state is the same; a `pass` of the model's own (log 1) has left the host's stream. -/
def Obligations.StepRunsTheAcceptedCommand : Prop :=
  ∀ (s : State) (i : Instr), s.engine = .start → decode s.cmd = .ok i →
    (s.env.host = [] → step s = exec i s) ∧
    (∀ rest, s.env.host = .wait :: rest → step s = exec i s) ∧
    (∀ rest, s.env.host = .pass :: rest → step s = exec i { s with env := { s.env with host := rest } })

/-- R24, R179: a sleep of SEND is one engine step, whether the host waits or has nothing to do; it counts the round (saturating,
R181) and SEND's loop comes next. -/
def Obligations.SendSleepCountsTheRound : Prop :=
  ∀ s : State, s.engine = .sendSleep → s.hostWaits →
    ∃ r : Word, step s = .next { s with engine := .sendLoop, txRounds := r } ∧
      r.toNat = min (s.txRounds.toNat + 1) (2 ^ 32 - 1)

/-- R190: the end of a sleep of RECV: RX_ELAPSED grows by POLL_INTERVAL_US, the poll is counted, and RECV ends TIMEOUT exactly
when RX_ELAPSED exceeds the timeout, with RESULT0 the number of failed polls. The timeout is read from ARG0 again at the end of
the sleep, which is the model's reading of R185 (log 11); below 2^63 the 64-bit addition does not wrap, and no run comes near it
(log 24). Where ARG0 was unwritten RECV ends there too, and TIMEOUT is not reported (R248, log 4). -/
def Obligations.RecvSleepCountsThePoll : Prop :=
  ∀ s : State, s.engine = .recvSleep → s.hostWaits → s.cfg.legal → s.rxElapsed.toNat < 2 ^ 63 →
    ∃ (t : State) (e : BitVec 64),
      step s = .next t ∧ e.toNat = s.rxElapsed.toNat + s.cfg.pollIntervalUs ∧
      (e.toNat ≤ s.arg0.value.toNat →
        t = { s with engine := .recvLoop, rxElapsed := e, rxPolls := s.rxPolls + 1 }) ∧
      (s.arg0.value.toNat < e.toNat →
        t = { s with
          engine := .idle, done := true, code := if s.arg0.written then .timeout else s.code
          result0 := t.result0, rxElapsed := e, rxPolls := s.rxPolls + 1, env := t.env } ∧
        (s.arg0.written = true → s.rxPolls + 1 < 2 ^ 32 → t.result0.toNat = s.rxPolls + 1) ∧
        (s.arg0.written = false → t.result0 = s.result0 ∧ t.env = s.env))

/-! ### The checksum functions (40_checksum.md) -/

/-- R114: with a seed of at most 0xFFFF every sum stays at most 0xFFFF; every seed BUILD starts from is at most 0xFFEF. -/
def Obligations.ChecksumStaysInSixteenBits : Prop :=
  (∀ (d : List Byte) (s : Word), s.toNat ≤ 0xFFFF → (ck d s).toNat ≤ 0xFFFF) ∧
  ∀ l : Nat, 42 ≤ l → l ≤ 65536 → 17 + (l - 34) ≤ 0xFFEF

/-- R115: the closed form of the sum and its consequences. -/
def Obligations.ChecksumClosedForm : Prop :=
  ∀ (d : List Byte) (s : Word), s.toNat ≤ 0xFFFF →
    (ck d s).toNat =
        (if s.toNat + wordSum d = 0 then 0 else 1 + (s.toNat + wordSum d - 1) % 0xFFFF) ∧
    (ck d s = 0 ↔ s = 0 ∧ ∀ b ∈ d, b = 0) ∧
    (s.toNat + wordSum d ≠ 0 → 0xFFFF ∣ s.toNat + wordSum d → ck d s = 0xFFFF)

/-- R116: spans fold in any order, and one span may be split at any even offset. -/
def Obligations.ChecksumOrderAndEvenSplits : Prop :=
  ∀ s : Word, s.toNat ≤ 0xFFFF →
    (∀ ds es : List (List Byte), ds.Perm es →
      ds.foldl (fun a d => ck d a) s = es.foldl (fun a d => ck d a) s) ∧
    ∀ (d : List Byte) (k : Nat), k ≤ d.length → k % 2 = 0 → ck (d.drop k) (ck (d.take k) s) = ck d s

/-- R118: `wrap(ck(d, 0))` is the Internet checksum of RFC 1071. -/
def Obligations.ChecksumIsRfc1071 : Prop :=
  ∀ d : List Byte, wrap (ck d 0) = rfc1071 d

/-- R119: a checksum field filled with the checksum of the span validates: the sum is 0xFFFF and its `wrap` is 0. -/
def Obligations.FilledChecksumFieldValidates : Prop :=
  ∀ (pre post : List Byte) (s : Word), pre.length % 2 = 0 → s.toNat ≤ 0xFFFF →
    ck (pre ++ be16 (wrap (ck (pre ++ [0, 0] ++ post) s)) ++ post) s = 0xFFFF ∧
    wrap (ck (pre ++ be16 (wrap (ck (pre ++ [0, 0] ++ post) s)) ++ post) s) = 0

/-! ### CSUM and WRAPSUM (40_checksum.md) -/

/-- R112, R110, R120: CSUM with its span written and inside the space folds the span into ACC and finishes OK; where one of its three
registers was unwritten the run is faulted and no code is reported (R248, log 4). The fold, for every 32-bit seed: an empty span
leaves it, a span goes on word by word, an odd last byte is a high byte, and one word is one addition modulo 2^32 with one subtraction
of 0xFFFF from a sum above 0xFFFF. -/
def Obligations.CsumFoldsItsSpan : Prop :=
  (∀ (s : State) (sp : Space) (d : List Byte),
    s.arg0.value.toNat + s.arg1.value.toNat ≤ 65536 →
    d.length = s.arg1.value.toNat → s.holds sp s.arg0.value.toNat d →
    exec (.csum sp) s = .next { s with
      acc := { value := ck d s.acc.value, written := true }
      faulted := s.faulted || !(s.arg0.written && s.arg1.written && s.acc.written)
      engine := .idle, done := true
      code := if s.arg0.written && s.arg1.written && s.acc.written then .ok else s.code }) ∧
  ∀ (seed : Word) (a b : Byte) (rest : List Byte),
    ck [] seed = seed ∧ ck [a] seed = ck [a, 0] seed ∧ ck (a :: b :: rest) seed = ck rest (ck [a, b] seed) ∧
    (0xFFFF < (seed.toNat + (a.toNat * 256 + b.toNat)) % 2 ^ 32 →
      (ck [a, b] seed).toNat = (seed.toNat + (a.toNat * 256 + b.toNat)) % 2 ^ 32 - 0xFFFF) ∧
    ((seed.toNat + (a.toNat * 256 + b.toNat)) % 2 ^ 32 ≤ 0xFFFF →
      (ck [a, b] seed).toNat = (seed.toNat + (a.toNat * 256 + b.toNat)) % 2 ^ 32)

/-- R247: CSUM whose span leaves the space finishes BAD_OPERAND; ACC and every other state are unchanged. -/
def Obligations.CsumOutOfRangeIsBadOperand : Prop :=
  ∀ (s : State) (sp : Space), s.arg0.written = true → s.arg1.written = true →
    65536 < s.arg0.value.toNat + s.arg1.value.toNat →
    exec (.csum sp) s = .next { s with
      result0 := s.arg0.value, result1 := s.arg1.value
      engine := .idle, done := true, code := .badOperand }

/-- R113, R111: WRAPSUM puts the complement of ACC's low 16 bits into RESULT0 and changes nothing else; ACC is kept. Where
ACC was unwritten the run is faulted and no code is reported (R248, log 4). -/
def Obligations.WrapsumComplementsTheLowHalf : Prop :=
  ∀ s : State,
    exec .wrapsum s = .next { s with
      result0 := ~~~ s.acc.value &&& 0x0000FFFF, faulted := s.faulted || !s.acc.written
      engine := .idle, done := true, code := if s.acc.written then .ok else s.code }

/-- R43, R112, R113, R248, R260, R293: UNWRITTEN_READ in CSUM and WRAPSUM. Of a register (ARG0, ARG1 or, the span being in range, ACC) it
is recorded; it pre-empts BAD_OPERAND, and no code is reported; with a span in range the command goes on with the values the registers
hold (log 4). With all of them written nothing is recorded. Of a byte of a span in range it stops the machine (log 4). -/
def Obligations.ChecksumOfUnwrittenStateIsTheModelFault : Prop :=
  ∀ (s : State) (sp : Space),
    (s.acc.written = false →
      exec .wrapsum s = .next { s with
        result0 := ~~~ s.acc.value &&& 0x0000FFFF, faulted := true, engine := .idle, done := true }) ∧
    (s.arg0.written = false ∨ s.arg1.written = false → 65536 < s.arg0.value.toNat + s.arg1.value.toNat →
      exec (.csum sp) s = .next { s with faulted := true, engine := .idle, done := true }) ∧
    (∀ d : List Byte, s.arg0.written = false ∨ s.arg1.written = false ∨ s.acc.written = false →
      s.arg0.value.toNat + s.arg1.value.toNat ≤ 65536 →
      d.length = s.arg1.value.toNat → s.holds sp s.arg0.value.toNat d →
      exec (.csum sp) s = .next { s with
        acc := { value := ck d s.acc.value, written := true }, faulted := true, engine := .idle, done := true }) ∧
    (∀ (i : Instr) (t : State), i = .wrapsum ∨ i = .csum sp → exec i s = .next t →
      s.arg0.written = true → s.arg1.written = true → s.acc.written = true → t.faulted = s.faulted) ∧
    (s.arg0.value.toNat + s.arg1.value.toNat ≤ 65536 →
      (∃ i < s.arg1.value.toNat, s.byteAt sp (s.arg0.value.toNat + i) = none) →
      ∃ i < s.arg1.value.toNat,
        s.byteAt sp (s.arg0.value.toNat + i) = none ∧
        exec (.csum sp) s = .fault (.unwrittenRead sp (s.arg0.value.toNat + i)))

/-! ### BUILD (41_builder.md) -/

/-- R141, R143 to R148, R150: the frame BUILD lays out, field by field, its two checksums, FM_LEN and the results. Where one of the
ten PacketSpec registers was unwritten the run is faulted and no code is reported (R248, log 4, log 14). -/
def Obligations.BuildLaysOutTheFrame : Prop :=
  ∀ s : State, Memory.wf 65536 s.fm →
    42 ≤ s.spec.frameLen.value.toNat → s.spec.frameLen.value.toNat ≤ 65536 →
    ∃ t ipc udpc, exec .build s = .next t ∧
      t.holds .fm 0 (be16 s.spec.dstMacHi.value ++ be32 s.spec.dstMacLo.value) ∧
      t.holds .fm 6 (be16 s.spec.srcMacHi.value ++ be32 s.spec.srcMacLo.value) ∧
      t.holds .fm 12 [0x08, 0x00] ∧
      t.holds .fm 14 [0x45, 0x00] ∧
      t.holds .fm 16 (be16 (BitVec.ofNat 16 (s.spec.frameLen.value.toNat - 14))) ∧
      t.holds .fm 18 [0x00, 0x00] ∧
      t.holds .fm 20 [0x40, 0x00] ∧
      t.holds .fm 22 [BitVec.ofNat 8 s.cfg.ipTtl, 17] ∧
      t.holds .fm 24 (be16 ipc) ∧
      t.holds .fm 26 (be32 s.spec.srcIp.value) ∧
      t.holds .fm 30 (be32 s.spec.dstIp.value) ∧
      t.holds .fm 34 (be16 s.spec.srcPort.value) ∧
      t.holds .fm 36 (be16 s.spec.dstPort.value) ∧
      t.holds .fm 38 (be16 (BitVec.ofNat 16 (s.spec.frameLen.value.toNat - 34))) ∧
      t.holds .fm 40 (be16 udpc) ∧
      (∀ a, 42 ≤ a → a < s.spec.frameLen.value.toNat → t.byteAt .fm a = some s.spec.filler.value) ∧
      ipc = wrap (ck (t.fmSpan 14 10 ++ [0, 0] ++ t.fmSpan 26 8) 0) ∧
      udpc = wrap (ck (t.fmSpan 34 6 ++ [0, 0])
        (ck (t.fmSpan 42 (s.spec.frameLen.value.toNat - 42))
          (ck (t.fmSpan 26 8) (BitVec.ofNat 32 (17 + (s.spec.frameLen.value.toNat - 34)))))) ∧
      t.fmLen = s.spec.frameLen.value ∧
      t.result0 = ipc.setWidth 32 ∧ t.result1 = udpc.setWidth 32 ∧ t.result2 = s.result2 ∧
      t.engine = .idle ∧ t.done = true ∧ t.code = (if s.spec.marked then .ok else s.code) ∧ t.fatal = s.fatal ∧
      t.faulted = (s.faulted || !s.spec.marked)

/-- R153: after a BUILD of a legal length both checksums validate: the recomputed sums are 0xFFFF and their `wrap` is 0. With every
PacketSpec register written that is a BUILD that finishes OK (BuildLaysOutTheFrame, BuildRejectsIllegalLengths). That it holds where one
was unwritten, too, is the model's choice: BUILD then goes on with the value the register holds (log 3, log 4). -/
def Obligations.BuiltChecksumsValidate : Prop :=
  ∀ s t : State, Memory.wf 65536 s.fm → 42 ≤ s.spec.frameLen.value.toNat → s.spec.frameLen.value.toNat ≤ 65536 →
    exec .build s = .next t →
    ck (t.fmSpan 14 20) 0 = 0xFFFF ∧ wrap (ck (t.fmSpan 14 20) 0) = 0 ∧
    ck (t.fmSpan 34 (t.fmLen.toNat - 34))
      (ck (t.fmSpan 26 8) (BitVec.ofNat 32 (17 + (t.fmLen.toNat - 34)))) = 0xFFFF ∧
    wrap (ck (t.fmSpan 34 (t.fmLen.toNat - 34))
      (ck (t.fmSpan 26 8) (BitVec.ofNat 32 (17 + (t.fmLen.toNat - 34))))) = 0

/-- R155: BUILD's UDP checksum is the RFC 768 checksum of the datagram: the RFC 1071 checksum of pseudo-header, header with a
zero checksum field, and payload; a computed 0 is not replaced (R149). It holds for every legal length. That it holds where a PacketSpec
register was unwritten, too, is the model's choice: BUILD then goes on with the value the register holds (log 3, log 4). -/
def Obligations.BuiltUdpChecksumIsRfc768 : Prop :=
  ∀ s t : State, Memory.wf 65536 s.fm → 42 ≤ s.spec.frameLen.value.toNat → s.spec.frameLen.value.toNat ≤ 65536 →
    exec .build s = .next t →
    t.result1 =
      (rfc1071 (be32 s.spec.srcIp.value ++ be32 s.spec.dstIp.value ++ [0, 17]
        ++ be16 (BitVec.ofNat 16 (t.fmLen.toNat - 34))
        ++ be16 s.spec.srcPort.value ++ be16 s.spec.dstPort.value
        ++ be16 (BitVec.ofNat 16 (t.fmLen.toNat - 34)) ++ [0, 0]
        ++ List.replicate (t.fmLen.toNat - 42) s.spec.filler.value)).setWidth 32

/-- R151, R152: BUILD of a legal length changes FM below FRAME_LEN, FM_LEN, RESULT0, RESULT1, STATUS and the hidden `bacc`, and nothing
else; where a PacketSpec register was unwritten a fault is recorded and no code is reported (R248, log 4). -/
def Obligations.BuildChangesOnlyTheFrame : Prop :=
  ∀ s t : State, Memory.wf 65536 s.fm → 42 ≤ s.spec.frameLen.value.toNat → s.spec.frameLen.value.toNat ≤ 65536 →
    exec .build s = .next t →
    t = { s with
      fm := t.fm, fmLen := t.fmLen, result0 := t.result0, result1 := t.result1, bacc := t.bacc
      faulted := s.faulted || !s.spec.marked
      engine := .idle, done := true, code := if s.spec.marked then .ok else s.code } ∧
    ∀ a, s.spec.frameLen.value.toNat ≤ a → t.byteAt .fm a = s.byteAt .fm a

/-- R152: BUILD is determined by the PacketSpec registers (and the parameter IP_TTL): two states that agree on them, on a
legal length, get the same frame and the same results, whatever else differs. That it holds where one of them was unwritten, too, is
the model's choice: BUILD then goes on with the value the register holds (log 3, log 4), while R43 fixes no value. -/
def Obligations.BuildDependsOnlyOnThePacketSpec : Prop :=
  ∀ s₁ s₂ t₁ t₂ : State, s₁.spec = s₂.spec → s₁.cfg.ipTtl = s₂.cfg.ipTtl →
    Memory.wf 65536 s₁.fm → Memory.wf 65536 s₂.fm →
    42 ≤ s₁.spec.frameLen.value.toNat → s₁.spec.frameLen.value.toNat ≤ 65536 →
    exec .build s₁ = .next t₁ → exec .build s₂ = .next t₂ →
    (s₁.spec.marked = true → t₁.code = .ok ∧ t₂.code = .ok) ∧
    t₁.fmLen = t₂.fmLen ∧ t₁.result0 = t₂.result0 ∧ t₁.result1 = t₂.result1 ∧
    ∀ a < s₁.spec.frameLen.value.toNat, t₁.byteAt .fm a = t₂.byteAt .fm a

/-- R142, R242, R243: a length below 42 or above 65536 halts with LAYOUT_OVERFLOW; nothing is said of FM and FM_LEN. R248: where
FRAME_LEN was unwritten the fault pre-empts the check: it is recorded and BUILD ends with no code, not halted (log 4). -/
def Obligations.BuildRejectsIllegalLengths : Prop :=
  ∀ s : State,
    (s.spec.frameLen.value.toNat < 42 ∨ 65536 < s.spec.frameLen.value.toNat) →
    (s.spec.frameLen.written = true →
      ∃ t, exec .build s = .next t ∧
        t = { s with
          fm := t.fm, fmLen := t.fmLen, env := t.env
          engine := .idle, done := true, fatal := true, code := .layoutOverflow }) ∧
    (s.spec.frameLen.written = false →
      exec .build s = .next { s with faulted := true, engine := .idle, done := true })

/-- R43, R248, R260, R293: UNWRITTEN_READ in the other commands. Of a register it is recorded, no code is reported any more, and the
command goes on to its end or to the first check that fails (log 4): in BUILD (R140) FRAME_LEN, or another PacketSpec register once the
length check has passed (log 14), in RECV (R185) ARG0, in its first pass and in a later one and at the end of a sleep. Of a byte it stops
the machine (log 4): in SEND (R181), once a free slot has been found and the frame fits it, in its first and in a later pass, an
unwritten byte of `FM[0:FM_LEN]`; in VERIFY (R220), after equal written bytes, the byte of FM, else of RF, it compares next
(log 16). -/
def Obligations.BuildSendRecvVerifyOfUnwrittenStateIsTheModelFault : Prop :=
  ∀ s : State,
    (s.spec.frameLen.written = false →
      ∃ t, exec .build s = .next t ∧ t.faulted = true ∧ t.code = s.code ∧ t.fatal = s.fatal) ∧
    (s.spec.marked = false → 42 ≤ s.spec.frameLen.value.toNat → s.spec.frameLen.value.toNat ≤ 65536 →
      ∃ t, exec .build s = .next t ∧ t.faulted = true ∧ t.fmLen = s.spec.frameLen.value ∧
        t.code = s.code ∧ t.fatal = s.fatal) ∧
    ((∃ t ∈ s.txq, 0 < t.free s.cfg.numSlots) → s.fmLen.toNat ≤ s.cfg.slotBufSize →
      (∃ i < s.fmLen.toNat, s.byteAt .fm i = none) →
      ∃ i < s.fmLen.toNat, s.byteAt .fm i = none ∧ exec .send s = .fault (.unwrittenRead .fm i) ∧
        (s.engine = .sendLoop → s.hostWaits → step s = .fault (.unwrittenRead .fm i))) ∧
    (s.arg0.written = false →
      (∃ t, exec .recv s = .next t ∧ t.faulted = true) ∧
      (∀ (b : RecvStart) (t : State), s.recvPass b t → t.code = s.code ∧ t.fatal = s.fatal) ∧
      (s.engine = .recvSleep → s.hostWaits → ∃ t, step s = .next t ∧ t.code = s.code ∧ t.fatal = s.fatal)) ∧
    (∀ d : List Byte, s.fmLen = s.rfLen → d.length < s.fmLen.toNat → s.holds .fm 0 d → s.holds .rf 0 d →
      (s.byteAt .fm d.length = none → exec .verify s = .fault (.unwrittenRead .fm d.length)) ∧
      (s.byteAt .fm d.length ≠ none → s.byteAt .rf d.length = none →
        exec .verify s = .fault (.unwrittenRead .rf d.length)))

/-! ### The substrate (42_ring_transport.md) -/

/-- R177, R174: at `sync(TX)` a queue hands over, in order, the slots from HWCUR up to HEAD, with their bytes and flags, HWCUR
becomes HEAD, and it completes at most `inflight(q)` slots: TAIL moves and its free count grows by exactly those. The engine's pointers
and the
slots are untouched. HWCUR may be behind HEAD, as right after SEND has filled a slot. That a number above `inflight(q)` counts as
`inflight(q)` is the model's choice (log 8). R176: one sync covers every transmit queue, each with its own number, and changes nothing
else; the numbers are the next listed choice, or a free one (log 8). -/
def Obligations.SyncTxCompletesWithinInflight : Prop :=
  (∀ (p : Params) (t : TxQueue) (q k : Nat), p.legal →
    t.head.toNat < p.numSlots → t.tail.toNat < p.numSlots → t.hwcur.toNat < p.numSlots →
    (t.sync p.numSlots q k).free p.numSlots = t.free p.numSlots + min k (t.inflight p.numSlots) ∧
    (t.sync p.numSlots q k).free p.numSlots ≤ p.numSlots - 1 ∧
    (t.sync p.numSlots q k).tail.toNat = (t.tail.toNat + min k (t.inflight p.numSlots)) % p.numSlots ∧
    (t.sync p.numSlots q k).head = t.head ∧ (t.sync p.numSlots q k).cur = t.cur ∧
    (t.sync p.numSlots q k).slots = t.slots ∧ (t.sync p.numSlots q k).hwcur = t.head ∧
    ∃ es : List TxEvent, (t.sync p.numSlots q k).wire = t.wire ++ es ∧
      es.length = (t.head.toNat + (p.numSlots - t.hwcur.toNat)) % p.numSlots ∧
      ∀ j < es.length, ∀ (sl : Slot) (d : List Byte),
        Table.read t.slots ((t.hwcur.toNat + j) % p.numSlots) = some sl →
        d.length = sl.len.toNat → (∀ i < d.length, Table.read sl.buf i = d[i]?) →
        es[j]? = some { bytes := d, flags := sl.flags }) ∧
  ∀ s : State,
    syncTx s = { s with txq := (syncTx s).txq, env := s.env.takeTx.2 } ∧
    (∀ i : Nat, (syncTx s).txq[i]? =
      s.txq[i]?.map fun t => t.sync s.cfg.numSlots i (s.env.takeTx.1[i]?.getD 0)) ∧
    ∀ c rest, s.env.txScript = c :: rest → s.env.takeTx = (c, { s.env with txScript := rest })

/-- R178: at `sync(RX)` a queue publishes the chosen slots, at most `(NUM_SLOTS - 1) - pending(q)`, from TAIL on: each holds its
choice's length, flags and `min(len, SLOT_BUF_SIZE)` bytes, its further bytes kept. TAIL moves and its pending count grows by exactly
that, no slot that was pending is
overwritten, and no other slot changes. That chosen slots beyond that room are dropped, and that a choice of too few bytes is filled
with zeros, is the model's choice (log 8). R176: one sync covers every receive queue, each with its own choice, and changes nothing
else; the choice is the next listed one, or a free one (log 8). -/
def Obligations.SyncRxNeverOverwritesPendingSlots : Prop :=
  (∀ (p : Params) (r : RxQueue) (q : Nat) (cs : List SlotChoice), p.legal → r.inv p →
    (r.sync p.numSlots p.slotBufSize q cs).pending p.numSlots =
      r.pending p.numSlots + min cs.length (p.numSlots - 1 - r.pending p.numSlots) ∧
    (r.sync p.numSlots p.slotBufSize q cs).tail.toNat =
      (r.tail.toNat + min cs.length (p.numSlots - 1 - r.pending p.numSlots)) % p.numSlots ∧
    (r.sync p.numSlots p.slotBufSize q cs).head = r.head ∧ (r.sync p.numSlots p.slotBufSize q cs).cur = r.cur ∧
    (∀ j < r.pending p.numSlots,
      Table.read (r.sync p.numSlots p.slotBufSize q cs).slots (ringAdd p.numSlots r.head j).toNat =
        Table.read r.slots (ringAdd p.numSlots r.head j).toNat) ∧
    (∀ (j : Nat) (c : SlotChoice), cs[j]? = some c → j < p.numSlots - 1 - r.pending p.numSlots →
      ∃ sl, Table.read (r.sync p.numSlots p.slotBufSize q cs).slots ((r.tail.toNat + j) % p.numSlots) = some sl ∧
        sl.len = c.len ∧ sl.flags = c.flags ∧
        (∀ x < min c.len.toNat p.slotBufSize, Table.read sl.buf x = some (c.bytes[x]?.getD 0)) ∧
        ∀ sl', Table.read r.slots ((r.tail.toNat + j) % p.numSlots) = some sl' →
          ∀ x, min c.len.toNat p.slotBufSize ≤ x → Table.read sl.buf x = Table.read sl'.buf x) ∧
    ∀ i : Nat,
      (∀ j < min cs.length (p.numSlots - 1 - r.pending p.numSlots), (r.tail.toNat + j) % p.numSlots ≠ i) →
      Table.read (r.sync p.numSlots p.slotBufSize q cs).slots i = Table.read r.slots i) ∧
  ∀ s : State,
    syncRx s = { s with rxq := (syncRx s).rxq, env := s.env.takeRx.2 } ∧
    (∀ i : Nat, (syncRx s).rxq[i]? =
      s.rxq[i]?.map fun r => r.sync s.cfg.numSlots s.cfg.slotBufSize i (s.env.takeRx.1[i]?.getD [])) ∧
    ∀ c rest, s.env.rxScript = c :: rest → s.env.takeRx = (c, { s.env with rxScript := rest })

/-- R79: between syncs the engine's view of the rings is stable: a step that is not a reset leaves every transmit queue alone
unless SEND runs in it, and every receive queue unless RECV runs in it. -/
def Obligations.RingsChangeOnlyWhileSendOrRecvRuns : Prop :=
  ∀ s t : State, step s = .next t → s.env.host.head? ≠ some .reset →
    (s.engine ≠ .sendLoop → (s.engine = .start → decode s.cmd ≠ .ok .send) → t.txq = s.txq) ∧
    (s.engine ≠ .recvLoop → (s.engine = .start → decode s.cmd ≠ .ok .recv) → t.rxq = s.rxq)

/-! ### SEND (42_ring_transport.md) -/

/-- R181, R182, R180: in the first pass and in a later one, after `n` failed rounds, the first queue with a free slot takes the
frame: slot, length, flags, HEAD and CUR, one sync, the results, RESULT2 being `n`; every other slot of the queue and every byte of the
slot beyond the frame keep their values. The sync (R177) hands the slot over, HWCUR becomes HEAD, and TAIL moves by the queue's chosen
number, at most `inflight(q)`, which the filled slot has raised by 1; every other transmit queue is synced with its own number
(SyncTxCompletesWithinInflight; the numbers: log 8). -/
def Obligations.SendFillsTheFirstFreeSlot : Prop :=
  ∀ (s : State) (q : Nat) (t : TxQueue) (d : List Byte),
    s.ringsInv → s.txq[q]? = some t → 0 < t.free s.cfg.numSlots →
    (∀ (q' : Nat) (t' : TxQueue), q' < q → s.txq[q']? = some t' → t'.free s.cfg.numSlots = 0) →
    s.fmLen.toNat ≤ s.cfg.slotBufSize → d.length = s.fmLen.toNat → s.holds .fm 0 d →
    s.sendLeaves fun n u => ∃ t' sl, u.txq[q]? = some t' ∧
      Table.read t'.slots t.head.toNat = some sl ∧
      sl.len.toNat = d.length ∧ sl.flags = 0x0002 ∧ (∀ j < d.length, Table.read sl.buf j = d[j]?) ∧
      (∀ sl', Table.read t.slots t.head.toNat = some sl' →
        ∀ j, d.length ≤ j → Table.read sl.buf j = Table.read sl'.buf j) ∧
      (∀ i, i ≠ t.head.toNat → Table.read t'.slots i = Table.read t.slots i) ∧
      t'.head.toNat = (t.head.toNat + 1) % s.cfg.numSlots ∧ t'.cur = t'.head ∧ t'.hwcur = t'.head ∧
      t'.tail.toNat =
        (t.tail.toNat + min (s.env.takeTx.1[q]?.getD 0) (t.inflight s.cfg.numSlots + 1)) % s.cfg.numSlots ∧
      (∀ q' : Nat, q' ≠ q →
        u.txq[q']? = s.txq[q']?.map fun x => x.sync s.cfg.numSlots q' (s.env.takeTx.1[q']?.getD 0)) ∧
      t'.wire = t.wire ++ [{ bytes := d, flags := 0x0002 }] ∧ u.env = s.env.takeTx.2 ∧
      u.result0.toNat = q ∧ u.result1 = t.head ∧ u.result2 = n ∧
      u.engine = .idle ∧ u.done = true ∧ u.code = .ok ∧ u.fatal = s.fatal

/-- R183: a frame larger than a slot buffer halts SEND once a free slot is found, in its first pass or after `n` failed rounds;
nothing is written and no sync follows. -/
def Obligations.SendRejectsOversizedFrame : Prop :=
  ∀ (s : State) (q : Nat) (t : TxQueue),
    s.txq[q]? = some t → 0 < t.free s.cfg.numSlots →
    (∀ (q' : Nat) (t' : TxQueue), q' < q → s.txq[q']? = some t' → t'.free s.cfg.numSlots = 0) →
    s.cfg.slotBufSize < s.fmLen.toNat →
    s.sendLeaves fun n u => u = { s with
      txRounds := n, result0 := BitVec.ofNat 32 q, result1 := t.head, result2 := n
      engine := .idle, done := true, fatal := true, code := .txFrameTooLarge }

/-- R184: with no free slot anywhere SEND, in its first pass and in a later one, makes exactly one sync and waits in phase TX_WAIT;
HEAD, CUR and the slots of every transmit queue, and everything else but the substrate's side, are unchanged. -/
def Obligations.SendWaitsWhenEveryQueueIsFull : Prop :=
  ∀ s : State, (∀ t ∈ s.txq, t.free s.cfg.numSlots = 0) →
    s.sendLeaves fun n u =>
      u = { s with engine := .sendSleep, txRounds := n, txq := (syncTx s).txq, env := s.env.takeTx.2 } ∧
      u.txq.length = s.txq.length ∧
      ∀ (q : Nat) (t t' : TxQueue), s.txq[q]? = some t → u.txq[q]? = some t' →
        t'.head = t.head ∧ t'.cur = t.cur ∧ t'.slots = t.slots ∧ t'.hwcur = t.head

/-- R196: what a pass of SEND, the first or a later one, may change: the one slot at HEAD of the first queue with a free slot and
that queue's HEAD and CUR (R180), the substrate's TAIL and HWCUR, the results, STATUS; the hidden round count is the rounds before
the pass. Every byte of FM and RF, every receive queue and every other slot is unchanged. A queue other than that one is as it was or
synced with its own number (R177); that one is as it was, or its TAIL moves as R177 says and its one new slot has been handed over. -/
def Obligations.SendChangesOnlyTransmitState : Prop :=
  ∀ (s u : State) (n : Word), s.ringsInv → s.sendPass n u →
    u = { s with
      txq := u.txq, txRounds := n, result0 := u.result0, result1 := u.result1, result2 := u.result2
      engine := u.engine, done := u.done, fatal := u.fatal, code := u.code, env := u.env } ∧
    u.txq.length = s.txq.length ∧
    ∀ (q : Nat) (t t' : TxQueue), s.txq[q]? = some t → u.txq[q]? = some t' →
      ((firstFree s).map Prod.fst ≠ some q → t'.head = t.head ∧ t'.cur = t.cur ∧ t'.slots = t.slots ∧
        (t' = t ∨ t' = t.sync s.cfg.numSlots q (s.env.takeTx.1[q]?.getD 0))) ∧
      ((firstFree s).map Prod.fst = some q → t' = t ∨
        t'.head.toNat = (t.head.toNat + 1) % s.cfg.numSlots ∧ t'.cur = t'.head ∧ t'.hwcur = t'.head ∧
        t'.tail.toNat =
          (t.tail.toNat + min (s.env.takeTx.1[q]?.getD 0) (t.inflight s.cfg.numSlots + 1)) % s.cfg.numSlots ∧
        ∃ e, t'.wire = t.wire ++ [e]) ∧
      ∀ i, i ≠ t.head.toNat → Table.read t'.slots i = Table.read t.slots i

/-- R184, R194, R195: with every transmit queue full and a substrate that completes no slot (the choice the model's script lists for
each sync, log 8), SEND never ends and reports no code: after `n` rounds of two steps (log 10) it is in TX_WAIT again, while the
host waits or has nothing to do. -/
def Obligations.SendRetriesWithoutBound : Prop :=
  ∀ (n : Nat) (s : State) (rest : List TxChoice),
    s.engine = .start → decode s.cmd = .ok .send → s.hostWaits → s.ringsInv →
    (∀ t ∈ s.txq, t.free s.cfg.numSlots = 0) →
    s.env.txScript = List.replicate (n + 1) [] ++ rest →
    ∃ u, Sys2Proof.core.run (2 * n + 1) s = .next u ∧
      u = { s with
        engine := .sendSleep, txRounds := BitVec.ofNat 32 (min n (2 ^ 32 - 1))
        env := { s.env with txScript := rest } }

/-! ### RECV (42_ring_transport.md) -/

/-- R193, R186, R189, R191: in RECV's first pass and in a later one, after a wait of `e` nominal microseconds, a frame whose fragments
are the first pending slots of the first queue with a pending slot is reassembled in order: RF, RF_LEN, HEAD and CUR past the
consumed slots, one sync, the results, and RX_ELAPSED keeps `e`. `ds` are the fragments but the last, `d` the last. The sync (R189,
R178) is that of the committed queue and of every other receive queue, each with its own choice (SyncRxNeverOverwritesPendingSlots; the
choices: log 8); a slot still pending after the commit keeps its length, flags and bytes (R171). The frame is the same where ARG0 was
unwritten, in a run that is then faulted and with no code reported (R248, log 4). -/
def Obligations.RecvReassemblesTheFrame : Prop :=
  ∀ (s : State) (q : Nat) (r : RxQueue) (ds : List (List Byte)) (d : List Byte),
    s.ringsInv → Memory.wf 65536 s.rf →
    s.rxq[q]? = some r →
    (∀ (q' : Nat) (r' : RxQueue), q' < q → s.rxq[q']? = some r' → r'.pending s.cfg.numSlots = 0) →
    ds.length + 1 ≤ r.pending s.cfg.numSlots → r.fragments s.cfg ds →
    r.slotIs (ringAdd s.cfg.numSlots r.head ds.length).toNat d false → d.length ≤ s.cfg.slotBufSize →
    (ds.flatten ++ d).length ≤ 65536 →
    s.recvLeaves fun b u => ∃ r', u.rxq[q]? = some r' ∧
      u.rfLen.toNat = (ds.flatten ++ d).length ∧ u.holds .rf 0 (ds.flatten ++ d) ∧
      (∀ a, (ds.flatten ++ d).length ≤ a → u.byteAt .rf a = s.byteAt .rf a) ∧
      r'.head.toNat = (r.head.toNat + (ds.length + 1)) % s.cfg.numSlots ∧ r'.cur = r'.head ∧
      r' = { r with head := r'.head, cur := r'.head }.sync s.cfg.numSlots s.cfg.slotBufSize q (s.env.takeRx.1[q]?.getD []) ∧
      (∀ j, ds.length + 1 ≤ j → j < r.pending s.cfg.numSlots →
        Table.read r'.slots ((r.head.toNat + j) % s.cfg.numSlots) = Table.read r.slots ((r.head.toNat + j) % s.cfg.numSlots)) ∧
      (∀ q' : Nat, q' ≠ q →
        u.rxq[q']? =
          s.rxq[q']?.map fun x => x.sync s.cfg.numSlots s.cfg.slotBufSize q' (s.env.takeRx.1[q']?.getD [])) ∧
      u.env = s.env.takeRx.2 ∧
      u.result0.toNat = q ∧ u.result1 = r.head ∧ u.result2.toNat = ds.length + 1 ∧ u.rxElapsed = b.elapsed ∧
      u.engine = .idle ∧ u.done = true ∧ u.code = (if s.arg0.written then .ok else s.code) ∧ u.fatal = s.fatal

/-- R188: when every pending slot has MOREFRAG = 1, RECV halts with RX_PARTIAL_FRAME, in its first pass and in a later one; RF and
RF_LEN hold what was appended, RX_ELAPSED the time waited, no queue is committed and no sync follows. R248: where ARG0 was unwritten
the outcome is not reported: no code, no results, not halted (log 4). -/
def Obligations.RecvHaltsOnPartialFrame : Prop :=
  ∀ (s : State) (q : Nat) (r : RxQueue) (ds : List (List Byte)),
    s.ringsInv → Memory.wf 65536 s.rf →
    s.rxq[q]? = some r →
    (∀ (q' : Nat) (r' : RxQueue), q' < q → s.rxq[q']? = some r' → r'.pending s.cfg.numSlots = 0) →
    0 < r.pending s.cfg.numSlots → ds.length = r.pending s.cfg.numSlots → r.fragments s.cfg ds →
    ds.flatten.length ≤ 65536 →
    s.recvLeaves fun b u =>
      u.rfLen.toNat = ds.flatten.length ∧ u.holds .rf 0 ds.flatten ∧
      u.rxq = s.rxq ∧ u.env = s.env ∧ u.rxElapsed = b.elapsed ∧
      u.engine = .idle ∧ u.done = true ∧
      (s.arg0.written = true →
        u.result0.toNat = q ∧ u.result1 = r.tail ∧ u.result2.toNat = ds.length ∧ u.code = .rxPartialFrame ∧ u.fatal = true) ∧
      (s.arg0.written = false →
        u.result0 = s.result0 ∧ u.result1 = s.result1 ∧ u.result2 = s.result2 ∧ u.code = s.code ∧ u.fatal = s.fatal)

/-- R187: a slot longer than its buffer (RESULT2 = 1), or one that takes the frame beyond 65536 bytes (RESULT2 = 0), halts RECV
with OVERSIZED_FRAME before any byte of it is appended, in its first pass and in a later one; no queue is committed and no sync
follows. R248: where ARG0 was unwritten the outcome is not reported: no code, no results, not halted (log 4). -/
def Obligations.RecvHaltsOnOversizedFrame : Prop :=
  ∀ (s : State) (q : Nat) (r : RxQueue) (ds : List (List Byte)) (sl : Slot),
    s.ringsInv → Memory.wf 65536 s.rf →
    s.rxq[q]? = some r →
    (∀ (q' : Nat) (r' : RxQueue), q' < q → s.rxq[q']? = some r' → r'.pending s.cfg.numSlots = 0) →
    ds.length + 1 ≤ r.pending s.cfg.numSlots → r.fragments s.cfg ds → ds.flatten.length ≤ 65536 →
    Table.read r.slots (ringAdd s.cfg.numSlots r.head ds.length).toNat = some sl →
    (s.cfg.slotBufSize < sl.len.toNat ∨ 65536 < ds.flatten.length + sl.len.toNat) →
    s.recvLeaves fun b u =>
      u.rfLen.toNat = ds.flatten.length ∧ u.holds .rf 0 ds.flatten ∧
      u.rxq = s.rxq ∧ u.env = s.env ∧ u.rxElapsed = b.elapsed ∧
      u.engine = .idle ∧ u.done = true ∧
      (s.arg0.written = true →
        u.result0.toNat = q ∧ u.result1.toNat = (r.head.toNat + ds.length) % s.cfg.numSlots ∧
        u.result2 = (if s.cfg.slotBufSize < sl.len.toNat then 1 else 0) ∧ u.code = .oversizedFrame ∧ u.fatal = true) ∧
      (s.arg0.written = false →
        u.result0 = s.result0 ∧ u.result1 = s.result1 ∧ u.result2 = s.result2 ∧ u.code = s.code ∧ u.fatal = s.fatal)

/-- R185, R190: with nothing pending RECV makes exactly one sync and waits in phase RX_WAIT, in its first pass, which starts a fresh
frame and records a fault where ARG0 was unwritten (log 4), and in a later one,
which keeps RX_ELAPSED and the polls; HEAD and CUR of every receive queue are unchanged. -/
def Obligations.RecvWaitsWhenNothingIsPending : Prop :=
  ∀ s : State, (∀ r ∈ s.rxq, r.pending s.cfg.numSlots = 0) →
    s.recvLeaves fun b u =>
      u = { s with
        engine := .recvSleep, rfLen := 0, rxElapsed := b.elapsed, rxPolls := b.polls, faulted := b.faulted
        rxq := (syncRx s).rxq, env := s.env.takeRx.2 } ∧
      u.rxq.length = s.rxq.length ∧
      ∀ (q : Nat) (r r' : RxQueue), s.rxq[q]? = some r → u.rxq[q]? = some r' →
        r'.head = r.head ∧ r'.cur = r.cur

/-- R196: what a pass of RECV, the first or a later one, may change: RF below the new RF_LEN, RF_LEN, HEAD and CUR of the first queue
with a pending slot (R180), the substrate's TAIL and slots, the results, STATUS and its hidden cursor; RX_ELAPSED and the count of
polls are those before the pass, both 0 in the first, which records a fault where ARG0 was unwritten (log 4). Every byte of FM, every
byte of RF at RF_LEN and above, and every transmit queue is unchanged. A receive queue is as it was, or synced with its own choice
(R178) from its HEAD, which is the committed one in that first queue; its slots that are still pending keep their contents. -/
def Obligations.RecvChangesOnlyReceiveState : Prop :=
  ∀ (s u : State) (b : RecvStart), s.ringsInv → Memory.wf 65536 s.rf → s.recvPass b u →
    u = { s with
      rf := u.rf, rfLen := u.rfLen, rxElapsed := b.elapsed, rxq := u.rxq, rcur := u.rcur, rn := u.rn, rxPolls := b.polls
      faulted := b.faulted
      result0 := u.result0, result1 := u.result1, result2 := u.result2
      engine := u.engine, done := u.done, fatal := u.fatal, code := u.code, env := u.env } ∧
    (∀ a, u.rfLen.toNat ≤ a → u.byteAt .rf a = s.byteAt .rf a) ∧
    u.rxq.length = s.rxq.length ∧
    ∀ (q : Nat) (r r' : RxQueue), s.rxq[q]? = some r → u.rxq[q]? = some r' →
      ((firstPending s).map Prod.fst ≠ some q → r'.head = r.head) ∧ r'.cur = r'.head ∧
      (r' = r ∨ r' =
        { r with head := r'.head, cur := r'.head }.sync s.cfg.numSlots s.cfg.slotBufSize q (s.env.takeRx.1[q]?.getD [])) ∧
      ∃ m ≤ r.pending s.cfg.numSlots,
        r'.head.toNat = (r.head.toNat + m) % s.cfg.numSlots ∧
        ∀ j, m ≤ j → j < r.pending s.cfg.numSlots →
          Table.read r'.slots ((r.head.toNat + j) % s.cfg.numSlots) = Table.read r.slots ((r.head.toNat + j) % s.cfg.numSlots)

/-- R192: when no scan finds a pending slot, RECV with timeout T finishes TIMEOUT after exactly `P = T / POLL_INTERVAL_US + 1`
attempts, each one sync and one sleep (two engine steps, log 10), with `RX_ELAPSED = P * POLL_INTERVAL_US`, so
`T < RX_ELAPSED <= T + POLL_INTERVAL_US`. What the substrate publishes at the last sync, `c`, is not seen (the choices are listed
in the model's script, log 8). The host waits or has nothing to do. Where ARG0 was unwritten a fault is recorded and TIMEOUT is not
reported (R248, log 4). -/
def Obligations.RecvTimesOutWithinOneInterval : Prop :=
  ∀ (s : State) (P : Nat) (c : RxChoice) (rest : List RxChoice),
    s.engine = .start → decode s.cmd = .ok .recv → s.hostWaits → s.ringsInv →
    (∀ r ∈ s.rxq, r.pending s.cfg.numSlots = 0) →
    P = s.arg0.value.toNat / s.cfg.pollIntervalUs + 1 →
    s.env.rxScript = List.replicate (P - 1) [] ++ c :: rest →
    ∃ u, Sys2Proof.core.run (2 * P) s = .next u ∧
      u.engine = .idle ∧ u.done = true ∧ u.code = (if s.arg0.written then .timeout else s.code) ∧ u.fatal = s.fatal ∧
      u.rxElapsed.toNat = P * s.cfg.pollIntervalUs ∧
      s.arg0.value.toNat < u.rxElapsed.toNat ∧
      u.rxElapsed.toNat ≤ s.arg0.value.toNat + s.cfg.pollIntervalUs ∧
      u.rfLen = 0 ∧ u.rf = s.rf ∧ u.env.rxScript = rest ∧
      (s.arg0.written = true → P < 2 ^ 32 → u.result0.toNat = P) ∧ (s.arg0.written = false → u.result0 = s.result0) ∧
      u.result1 = s.result1 ∧ u.result2 = s.result2 ∧
      u.faulted = (s.faulted || !s.arg0.written)

/-- R194: RECV always finishes, whatever the substrate does at the syncs, while the host waits or has nothing to do: within
`2 * (T / POLL_INTERVAL_US + 1)` engine steps (two for each poll, log 10) the engine is idle again. T is the value ARG0 holds; that RECV
goes on with it where ARG0 was unwritten is the model's choice (log 3, log 4). -/
def Obligations.RecvAlwaysFinishes : Prop :=
  ∀ s : State, s.engine = .start → decode s.cmd = .ok .recv → s.hostWaits → s.cfg.legal →
    ∃ n ≤ 2 * (s.arg0.value.toNat / s.cfg.pollIntervalUs + 1),
      ∃ u, Sys2Proof.core.run n s = .next u ∧ u.engine = .idle ∧ u.done = true

/-! ### VERIFY (43_verifier.md) -/

/-- R221: the lengths are checked first. -/
def Obligations.VerifyReportsLengthMismatch : Prop :=
  ∀ s : State, s.fmLen ≠ s.rfLen →
    exec .verify s = .next { s with
      result0 := s.fmLen, result1 := s.rfLen, engine := .idle, done := true, code := .lengthMismatch }

/-- R222: with equal lengths the first differing byte is reported; the bytes after it are not read. -/
def Obligations.VerifyReportsTheFirstDifference : Prop :=
  ∀ (s : State) (d : List Byte) (x y : Byte),
    s.fmLen = s.rfLen → d.length < s.fmLen.toNat → s.holds .fm 0 (d ++ [x]) → s.holds .rf 0 (d ++ [y]) → x ≠ y →
    exec .verify s = .next { s with
      result0 := BitVec.ofNat 32 d.length, result1 := x.setWidth 32, result2 := y.setWidth 32
      engine := .idle, done := true, code := .contentMismatch }

/-- R223: over written frames VERIFY finishes OK exactly on byte-for-byte equality across the full length, and then changes
nothing but STATUS. -/
def Obligations.VerifySucceedsOnlyOnEquality : Prop :=
  ∀ (s : State) (d e : List Byte),
    d.length = s.fmLen.toNat → e.length = s.rfLen.toNat → s.holds .fm 0 d → s.holds .rf 0 e →
    ∃ t, exec .verify s = .next t ∧ (t.code = .ok ↔ d = e) ∧
      (d = e → t = { s with engine := .idle, done := true, code := .ok })

/-! ### Whole-machine rules -/

/-- R34, R31, R95, R241: no command writes ARG0, ARG1, a PacketSpec register, CMD or OVERRUN, and none but CSUM writes ACC. None clears
the recorded fault, and none records one while every operand register has been written (R43, log 4). -/
def Obligations.CommandsKeepTheOperandRegisters : Prop :=
  ∀ (i : Instr) (s t : State), exec i s = .next t →
    t.arg0 = s.arg0 ∧ t.arg1 = s.arg1 ∧ t.spec = s.spec ∧ t.cmd = s.cmd ∧ t.overrun = s.overrun ∧
    ((∀ sp, i ≠ .csum sp) → t.acc = s.acc) ∧
    (s.faulted = true → t.faulted = true) ∧
    (s.arg0.written = true → s.arg1.written = true → s.acc.written = true → s.spec.marked = true → t.faulted = s.faulted)

/-- R36: the parameters never change, including across reset; nor does `hostReadsTail`, which stands with them and is the model's own
(log 25). -/
def Obligations.ParametersNeverChange : Prop :=
  ∀ s t : State, step s = .next t → t.cfg = s.cfg

/-- R280, R260, R293: only reset clears STATUS.FATAL and STATUS.OVERRUN, and the recorded fault, which is kept to the end of the
run. -/
def Obligations.OnlyResetClearsFatalAndOverrun : Prop :=
  ∀ s t : State, step s = .next t → s.env.host.head? ≠ some .reset →
    (s.fatal = true → t.fatal = true) ∧ (s.overrun = true → t.overrun = true) ∧ (s.faulted = true → t.faulted = true)

/-- R243, R245, R290: a halted engine does nothing: a step that is not a reset changes at most OVERRUN (and the environment); it sets
OVERRUN exactly when the host writes CMD, an RW register or a buffer byte, and never clears it. -/
def Obligations.HaltedEngineOnlySetsOverrun : Prop :=
  ∀ s t : State, s.fatal = true → s.engine = .idle → step s = .next t → s.env.host.head? ≠ some .reset →
    t = { s with overrun := t.overrun, env := t.env } ∧
    (t.overrun = true ↔ s.overrun = true ∨ ∃ w a v, s.env.host.head? = some (.write w a v) ∧ guardedWrite w a)

/-- R245: a host write that reaches CMD, an RW register or a buffer byte while a command executes or the engine is halted is
ignored and sets OVERRUN. -/
def Obligations.WritesWhileBusyOrHaltedAreIgnored : Prop :=
  ∀ (s : State) (w : Nat) (a : HostAddr) (v : Word) (rest : List HostOp),
    (s.engine ≠ .idle ∨ s.fatal = true) → s.env.host = .write w a v :: rest →
    guardedWrite w a →
    step s = .next { s with
      overrun := true, env := { s.env with host := rest, lastOp := some (.write w a v) } }

/-- R40, R41: host writes to read-only registers and reserved offsets are ignored, whatever the phase, and set no OVERRUN. -/
def Obligations.WritesToReadOnlyOffsetsAreIgnored : Prop :=
  ∀ (s : State) (a : HostAddr) (v : Word) (rest : List HostOp),
    s.env.host = .write 32 a v :: rest → a.toNat < 0x1000 → a.toNat % 4 = 0 →
    (a.toNat = 0x004 ∨ (0x014 ≤ a.toNat ∧ a.toNat ≤ 0x01C) ∨ 0x050 ≤ a.toNat) →
    step s = .next { s with env := { s.env with host := rest, lastOp := some (.write 32 a v) } }

/-- R73: no host read has a side effect on the block; a refused one has no effect at all. What it returns while the engine is idle:
the registers of R30 (R31, R35 to R39; an operand register once it has been written, R33, R34), queue pointers of absent queues
and reserved offsets 0 (R30, R40), a written byte of FM or RF (R67). At a TAIL offset it is TAIL where the chip lets the host read it
(R30, R39), and a free value where it does not (R84, D44); that a chip may do either is the model's choice (log 25). STATUS has a
statement of its own. -/
def Obligations.HostReadsReturnTheValueAndChangeNothing : Prop :=
  ∀ (s : State) (w : Nat) (a : HostAddr) (rest : List HostOp), s.env.host = .read w a :: rest →
    (¬ legalAccess w a → step s = .refused (.hostAccessRefused w a)) ∧
    (legalAccess w a → ∃ v : Word,
      step s = .next { s with
        env := { s.env with host := rest, lastOp := some (.read w a), readData := v, draws := s.env.draws + 1 } } ∧
      (s.engine = .idle →
        (∀ x ∈ [(0x000, s.cmd), (0x014, s.result0), (0x018, s.result1), (0x01C, s.result2), (0x048, s.fmLen), (0x04C, s.rfLen),
            (0x050, s.rxElapsed.extractLsb' 0 32), (0x054, s.rxElapsed.extractLsb' 32 32)],
          a.toNat = x.1 → v = x.2) ∧
        (∀ x ∈ [(0x008, s.arg0), (0x00C, s.arg1), (0x010, s.acc), (0x024, s.spec.dstMacLo), (0x02C, s.spec.srcMacLo),
            (0x030, s.spec.srcIp), (0x034, s.spec.dstIp), (0x044, s.spec.frameLen)],
          a.toNat = x.1 → x.2.written = true → v = x.2.value) ∧
        (∀ x ∈ [(0x020, s.spec.dstMacHi), (0x028, s.spec.srcMacHi), (0x038, s.spec.srcPort), (0x03C, s.spec.dstPort)],
          a.toNat = x.1 → x.2.written = true → v.toNat = x.2.value.toNat) ∧
        (a.toNat = 0x040 → s.spec.filler.written = true → v.toNat = s.spec.filler.value.toNat) ∧
        (s.cfg.legal →
          ∀ x ∈ [(0x058, s.cfg.numTxQueues + 65536 * s.cfg.numRxQueues), (0x05C, s.cfg.numSlots), (0x060, s.cfg.slotBufSize),
              (0x064, s.cfg.pollIntervalUs), (0x068, s.cfg.txBackoffUs), (0x06C, s.cfg.ipTtl)],
            a.toNat = x.1 → v.toNat = x.2) ∧
        (∀ q < 64, ∀ x ∈ [(0x100, TxQueue.head), (0x104, TxQueue.cur),
            (0x108, fun t => if s.cfg.hostReadsTail then t.tail else Config.freeRead s.env.draws)],
          a.toNat = x.1 + 0x10 * q → v = (s.txq[q]?).elim 0 x.2) ∧
        (∀ q < 64, ∀ x ∈ [(0x500, RxQueue.head), (0x504, RxQueue.cur),
            (0x508, fun r => if s.cfg.hostReadsTail then r.tail else Config.freeRead s.env.draws)],
          a.toNat = x.1 + 0x10 * q → v = (s.rxq[q]?).elim 0 x.2) ∧
        (a.toNat < 0x1000 →
          (0x070 ≤ a.toNat ∧ a.toNat < 0x100) ∨ (0x100 ≤ a.toNat ∧ a.toNat % 0x10 = 0xC) ∨ 0x900 ≤ a.toNat → v = 0) ∧
        (∀ (sp : Space) (i : Nat) (b : Byte), i < 65536 → a = byteAddr sp i → s.byteAt sp i = some b → v.toNat = b.toNat)))

/-- R65 to R68: exactly which host accesses are refused: all but aligned 32-bit accesses to the register window and 8-bit accesses
to FM and RF. -/
def Obligations.IllegalHostAccessesAreRefused : Prop :=
  ∀ (s : State) (w : Nat) (a : HostAddr) (op : HostOp) (rest : List HostOp),
    (op = .read w a ∨ ∃ v, op = .write w a v) → s.env.host = op :: rest →
    (step s = .refused (.hostAccessRefused w a) ↔
      ¬ legalAccess w a)

/-- R67, R61, R62: a host write of a byte of FM or RF while the engine is idle and not halted writes that byte, and no other byte of
that buffer, no byte of the other one, and neither length. -/
def Obligations.HostByteWriteWritesOneByte : Prop :=
  ∀ (s : State) (sp : Space) (a : Nat) (v : Word) (rest : List HostOp),
    s.engine = .idle → s.fatal = false → Memory.wf 65536 (s.memory sp) → a < 65536 →
    s.env.host = .write 8 (byteAddr sp a) v :: rest →
    ∃ t, step s = .next t ∧ t.byteAt sp a = some (v.setWidth 8) ∧
      (∀ b, b ≠ a → t.byteAt sp b = s.byteAt sp b) ∧
      (∀ sp', sp' ≠ sp → t.memory sp' = s.memory sp') ∧
      t = { s with
        fm := t.fm, rf := t.rf
        env := { s.env with host := rest, lastOp := some (.write 8 (byteAddr sp a) v) } }

/-- R30, R33, R34, R37, R73: a host write of an RW register while the engine is idle and not halted sets that register, reserved bits
left out, an illegal length not stored, and changes no other register, no buffer and no ring; and what the host reads of it right
after: the value, reserved bits 0; FM_LEN and RF_LEN keep their value when the written one is above 65536. -/
def Obligations.RegisterWritesSetOneRegisterAndReadBack : Prop :=
  ∀ (s : State) (a : HostAddr) (v : Word) (rest : List HostOp),
    s.engine = .idle → s.fatal = false → s.env.host = .write 32 a v :: rest →
    (∀ x ∈ [(0x008, { s with arg0 := ⟨v, true⟩ }), (0x00C, { s with arg1 := ⟨v, true⟩ }), (0x010, { s with acc := ⟨v, true⟩ }),
          (0x020, { s with spec := { s.spec with dstMacHi := ⟨v.extractLsb' 0 16, true⟩ } }),
          (0x024, { s with spec := { s.spec with dstMacLo := ⟨v, true⟩ } }),
          (0x028, { s with spec := { s.spec with srcMacHi := ⟨v.extractLsb' 0 16, true⟩ } }),
          (0x02C, { s with spec := { s.spec with srcMacLo := ⟨v, true⟩ } }),
          (0x030, { s with spec := { s.spec with srcIp := ⟨v, true⟩ } })] ++
        [(0x034, { s with spec := { s.spec with dstIp := ⟨v, true⟩ } }),
          (0x038, { s with spec := { s.spec with srcPort := ⟨v.extractLsb' 0 16, true⟩ } }),
          (0x03C, { s with spec := { s.spec with dstPort := ⟨v.extractLsb' 0 16, true⟩ } }),
          (0x040, { s with spec := { s.spec with filler := ⟨v.extractLsb' 0 8, true⟩ } }),
          (0x044, { s with spec := { s.spec with frameLen := ⟨v, true⟩ } }),
          (0x048, { s with fmLen := if v.toNat ≤ 65536 then v else s.fmLen }),
          (0x04C, { s with rfLen := if v.toNat ≤ 65536 then v else s.rfLen })],
      a.toNat = x.1 →
      step s = .next { x.2 with env := { s.env with host := rest, lastOp := some (.write 32 a v) } }) ∧
    ∀ rest', rest = .read 32 a :: rest' →
      a.toNat ∈ [0x008, 0x00C, 0x010, 0x020, 0x024, 0x028, 0x02C, 0x030, 0x034, 0x038, 0x03C, 0x040, 0x044, 0x048, 0x04C] →
      ∃ u, Sys2Proof.core.run 2 s = .next u ∧
        u.env.readData =
          (if a.toNat ∈ [0x020, 0x028, 0x038, 0x03C] then v &&& 0x0000FFFF
           else if a.toNat = 0x040 then v &&& 0x000000FF
           else if a.toNat = 0x048 then (if v.toNat ≤ 65536 then v else s.fmLen)
           else if a.toNat = 0x04C then (if v.toNat ≤ 65536 then v else s.rfLen)
           else v)

/-- R32, R24, R242: the fields of STATUS as the host reads them at any time, the numbers of the phases and of the codes written
out. -/
def Obligations.StatusReadsItsFieldsAtAnyTime : Prop :=
  ∀ (s : State) (rest : List HostOp), s.env.host = .read 32 4 :: rest →
    ∃ t, step s = .next t ∧
      (t.env.readData.getLsbD 0 = true ↔ s.engine ≠ .idle) ∧
      t.env.readData.getLsbD 1 = s.done ∧ t.env.readData.getLsbD 2 = s.fatal ∧ t.env.readData.getLsbD 3 = s.overrun ∧
      (∀ x ∈ [(Engine.idle, 0), (Engine.start, 1), (Engine.sendLoop, 1), (Engine.recvLoop, 1), (Engine.sendSleep, 2),
          (Engine.recvSleep, 3)],
        s.engine = x.1 → (t.env.readData.extractLsb' 4 4).toNat = x.2) ∧
      (∀ x ∈ [(StatusCode.ok, 0x00), (StatusCode.layoutOverflow, 0x01), (StatusCode.timeout, 0x02),
          (StatusCode.oversizedFrame, 0x03), (StatusCode.lengthMismatch, 0x04), (StatusCode.contentMismatch, 0x05),
          (StatusCode.txFrameTooLarge, 0x06), (StatusCode.rxPartialFrame, 0x07), (StatusCode.illegalCommand, 0x10),
          (StatusCode.badOperand, 0x11)],
        s.code = x.1 → (t.env.readData.extractLsb' 8 8).toNat = x.2) ∧
      t.env.readData.extractLsb' 16 16 = 0

/-! ### Invariants and reset -/

/-- R61, R62: every step keeps FM and RF in canonical form within their 65536 bytes. -/
def Obligations.StepKeepsTheBuffersCanonical : Prop :=
  ∀ s t : State, s.buffersInv → step s = .next t → t.buffersInv

/-- R39, R174: every step keeps the ring invariants: CUR = HEAD, every pointer a slot index, every slot in range. -/
def Obligations.StepKeepsTheRings : Prop :=
  ∀ s t : State, s.ringsInv → step s = .next t → t.ringsInv

/-- R37, R185: every step keeps the lengths legal, and RF_LEN at 0 while RECV is between its passes. -/
def Obligations.StepKeepsTheLengthsLegal : Prop :=
  ∀ s t : State, s.lengthsInv → step s = .next t → t.lengthsInv

/-- R24, R32, R243: every step keeps STATUS consistent. -/
def Obligations.StepKeepsStatusConsistent : Prop :=
  ∀ s t : State, s.statusInv → step s = .next t → t.statusInv

/-- R282: every step keeps it true that each pending slot has been written by the substrate, so RECV reads no unwritten slot. -/
def Obligations.StepKeepsPendingSlotsWritten : Prop :=
  ∀ s t : State, s.ringsInv → s.pendingInv → step s = .next t → t.pendingInv

/-- R281, R282, R283, R293: the state a reset leaves, field by field, whatever was executing; it begins a new run, with no fault
recorded. -/
def Obligations.ResetLeavesTheResetState : Prop :=
  ∀ (s : State) (rest : List HostOp), s.env.host = .reset :: rest →
    ∃ t, step s = .next t ∧
      t.cmd = 0 ∧ t.engine = .idle ∧ t.done = false ∧ t.fatal = false ∧ t.overrun = false ∧ t.code.number = 0 ∧
      t.arg0.written = false ∧ t.arg1.written = false ∧ t.acc.written = false ∧
      t.result0 = 0 ∧ t.result1 = 0 ∧ t.result2 = 0 ∧
      t.spec.dstMacHi.written = false ∧ t.spec.dstMacLo.written = false ∧ t.spec.srcMacHi.written = false ∧
      t.spec.srcMacLo.written = false ∧ t.spec.srcIp.written = false ∧ t.spec.dstIp.written = false ∧
      t.spec.srcPort.written = false ∧ t.spec.dstPort.written = false ∧ t.spec.filler.written = false ∧
      t.spec.frameLen.written = false ∧
      t.fmLen = 0 ∧ t.rfLen = 0 ∧ (∀ sp a, t.byteAt sp a = none) ∧ t.rxElapsed = 0 ∧ t.cfg = s.cfg ∧ t.faulted = false ∧
      t.txq.length = s.cfg.numTxQueues ∧ t.rxq.length = s.cfg.numRxQueues ∧
      (∀ q ∈ t.txq, q.head = 0 ∧ q.cur = 0 ∧ q.tail = BitVec.ofNat 32 (s.cfg.numSlots - 1) ∧ q.hwcur = 0 ∧
        (s.cfg.legal → q.free s.cfg.numSlots = s.cfg.numSlots - 1 ∧ q.inflight s.cfg.numSlots = 0)) ∧
      (∀ q ∈ t.rxq, q.head = 0 ∧ q.cur = 0 ∧ q.tail = 0 ∧ q.pending s.cfg.numSlots = 0)

/-- Every invariant holds right after reset, for all legal parameters, and so for State.reset (R282; the parameters State.reset
takes are the model's choice, log 2, log 25). -/
def Obligations.ResetMeetsTheInvariants : Prop :=
  (∀ (p : Params) (e : Env), p.legal →
    (State.resetWith p e).buffersInv ∧ (State.resetWith p e).ringsInv ∧ (State.resetWith p e).lengthsInv ∧
    (State.resetWith p e).statusInv ∧ (State.resetWith p e).pendingInv) ∧
  Config.exampleParams.legal ∧ State.reset = State.resetWith Config.exampleParams Env.empty
end

