-- ==== Sys2Proof/Laws/State.lean ====
section
/-! SUPPORT. One lemma per field per update of the state, so that no later proof unfolds a record update. -/

namespace Sys2Proof.Machine

variable (s : State)

/-! ### accept -/

@[simp] theorem accept_cfg (w : Word) : (accept w s).cfg = s.cfg := rfl
@[simp] theorem accept_cmd (w : Word) : (accept w s).cmd = w := rfl
@[simp] theorem accept_engine (w : Word) : (accept w s).engine = .start := rfl
@[simp] theorem accept_done (w : Word) : (accept w s).done = false := rfl
@[simp] theorem accept_fatal (w : Word) : (accept w s).fatal = s.fatal := rfl
@[simp] theorem accept_overrun (w : Word) : (accept w s).overrun = s.overrun := rfl
@[simp] theorem accept_code (w : Word) : (accept w s).code = .ok := rfl
@[simp] theorem accept_arg0 (w : Word) : (accept w s).arg0 = s.arg0 := rfl
@[simp] theorem accept_arg1 (w : Word) : (accept w s).arg1 = s.arg1 := rfl
@[simp] theorem accept_acc (w : Word) : (accept w s).acc = s.acc := rfl
@[simp] theorem accept_result0 (w : Word) : (accept w s).result0 = 0 := rfl
@[simp] theorem accept_result1 (w : Word) : (accept w s).result1 = 0 := rfl
@[simp] theorem accept_result2 (w : Word) : (accept w s).result2 = 0 := rfl
@[simp] theorem accept_spec (w : Word) : (accept w s).spec = s.spec := rfl
@[simp] theorem accept_fm (w : Word) : (accept w s).fm = s.fm := rfl
@[simp] theorem accept_fmLen (w : Word) : (accept w s).fmLen = s.fmLen := rfl
@[simp] theorem accept_rf (w : Word) : (accept w s).rf = s.rf := rfl
@[simp] theorem accept_rfLen (w : Word) : (accept w s).rfLen = s.rfLen := rfl
@[simp] theorem accept_rxElapsed (w : Word) : (accept w s).rxElapsed = s.rxElapsed := rfl
@[simp] theorem accept_txq (w : Word) : (accept w s).txq = s.txq := rfl
@[simp] theorem accept_rxq (w : Word) : (accept w s).rxq = s.rxq := rfl
@[simp] theorem accept_bacc (w : Word) : (accept w s).bacc = s.bacc := rfl
@[simp] theorem accept_rcur (w : Word) : (accept w s).rcur = s.rcur := rfl
@[simp] theorem accept_rn (w : Word) : (accept w s).rn = s.rn := rfl
@[simp] theorem accept_txRounds (w : Word) : (accept w s).txRounds = s.txRounds := rfl
@[simp] theorem accept_rxPolls (w : Word) : (accept w s).rxPolls = s.rxPolls := rfl
@[simp] theorem accept_faulted (w : Word) : (accept w s).faulted = s.faulted := rfl
@[simp] theorem accept_env (w : Word) : (accept w s).env = s.env := rfl

/-! ### finish -/

@[simp] theorem finish_cfg (c : StatusCode) : (finish c s).cfg = s.cfg := rfl
@[simp] theorem finish_cmd (c : StatusCode) : (finish c s).cmd = s.cmd := rfl
@[simp] theorem finish_engine (c : StatusCode) : (finish c s).engine = .idle := rfl
@[simp] theorem finish_done (c : StatusCode) : (finish c s).done = true := rfl
@[simp] theorem finish_fatal (c : StatusCode) : (finish c s).fatal = s.fatal := rfl
@[simp] theorem finish_overrun (c : StatusCode) : (finish c s).overrun = s.overrun := rfl
@[simp] theorem finish_code (c : StatusCode) : (finish c s).code = c := rfl
@[simp] theorem finish_arg0 (c : StatusCode) : (finish c s).arg0 = s.arg0 := rfl
@[simp] theorem finish_arg1 (c : StatusCode) : (finish c s).arg1 = s.arg1 := rfl
@[simp] theorem finish_acc (c : StatusCode) : (finish c s).acc = s.acc := rfl
@[simp] theorem finish_result0 (c : StatusCode) : (finish c s).result0 = s.result0 := rfl
@[simp] theorem finish_result1 (c : StatusCode) : (finish c s).result1 = s.result1 := rfl
@[simp] theorem finish_result2 (c : StatusCode) : (finish c s).result2 = s.result2 := rfl
@[simp] theorem finish_spec (c : StatusCode) : (finish c s).spec = s.spec := rfl
@[simp] theorem finish_fm (c : StatusCode) : (finish c s).fm = s.fm := rfl
@[simp] theorem finish_fmLen (c : StatusCode) : (finish c s).fmLen = s.fmLen := rfl
@[simp] theorem finish_rf (c : StatusCode) : (finish c s).rf = s.rf := rfl
@[simp] theorem finish_rfLen (c : StatusCode) : (finish c s).rfLen = s.rfLen := rfl
@[simp] theorem finish_rxElapsed (c : StatusCode) : (finish c s).rxElapsed = s.rxElapsed := rfl
@[simp] theorem finish_txq (c : StatusCode) : (finish c s).txq = s.txq := rfl
@[simp] theorem finish_rxq (c : StatusCode) : (finish c s).rxq = s.rxq := rfl
@[simp] theorem finish_bacc (c : StatusCode) : (finish c s).bacc = s.bacc := rfl
@[simp] theorem finish_rcur (c : StatusCode) : (finish c s).rcur = s.rcur := rfl
@[simp] theorem finish_rn (c : StatusCode) : (finish c s).rn = s.rn := rfl
@[simp] theorem finish_txRounds (c : StatusCode) : (finish c s).txRounds = s.txRounds := rfl
@[simp] theorem finish_rxPolls (c : StatusCode) : (finish c s).rxPolls = s.rxPolls := rfl
@[simp] theorem finish_faulted (c : StatusCode) : (finish c s).faulted = s.faulted := rfl
@[simp] theorem finish_env (c : StatusCode) : (finish c s).env = s.env := rfl

/-! ### endFaulted, outcome -/

@[simp] theorem endFaulted_cfg : (endFaulted s).cfg = s.cfg := rfl
@[simp] theorem endFaulted_cmd : (endFaulted s).cmd = s.cmd := rfl
@[simp] theorem endFaulted_engine : (endFaulted s).engine = .idle := rfl
@[simp] theorem endFaulted_done : (endFaulted s).done = true := rfl
@[simp] theorem endFaulted_fatal : (endFaulted s).fatal = s.fatal := rfl
@[simp] theorem endFaulted_overrun : (endFaulted s).overrun = s.overrun := rfl
@[simp] theorem endFaulted_code : (endFaulted s).code = s.code := rfl
@[simp] theorem endFaulted_arg0 : (endFaulted s).arg0 = s.arg0 := rfl
@[simp] theorem endFaulted_arg1 : (endFaulted s).arg1 = s.arg1 := rfl
@[simp] theorem endFaulted_acc : (endFaulted s).acc = s.acc := rfl
@[simp] theorem endFaulted_result0 : (endFaulted s).result0 = s.result0 := rfl
@[simp] theorem endFaulted_result1 : (endFaulted s).result1 = s.result1 := rfl
@[simp] theorem endFaulted_result2 : (endFaulted s).result2 = s.result2 := rfl
@[simp] theorem endFaulted_spec : (endFaulted s).spec = s.spec := rfl
@[simp] theorem endFaulted_fm : (endFaulted s).fm = s.fm := rfl
@[simp] theorem endFaulted_fmLen : (endFaulted s).fmLen = s.fmLen := rfl
@[simp] theorem endFaulted_rf : (endFaulted s).rf = s.rf := rfl
@[simp] theorem endFaulted_rfLen : (endFaulted s).rfLen = s.rfLen := rfl
@[simp] theorem endFaulted_rxElapsed : (endFaulted s).rxElapsed = s.rxElapsed := rfl
@[simp] theorem endFaulted_txq : (endFaulted s).txq = s.txq := rfl
@[simp] theorem endFaulted_rxq : (endFaulted s).rxq = s.rxq := rfl
@[simp] theorem endFaulted_bacc : (endFaulted s).bacc = s.bacc := rfl
@[simp] theorem endFaulted_rcur : (endFaulted s).rcur = s.rcur := rfl
@[simp] theorem endFaulted_rn : (endFaulted s).rn = s.rn := rfl
@[simp] theorem endFaulted_txRounds : (endFaulted s).txRounds = s.txRounds := rfl
@[simp] theorem endFaulted_rxPolls : (endFaulted s).rxPolls = s.rxPolls := rfl
@[simp] theorem endFaulted_faulted : (endFaulted s).faulted = s.faulted := rfl
@[simp] theorem endFaulted_env : (endFaulted s).env = s.env := rfl

@[simp] theorem outcome_true (report : State → State) : outcome true report s = report s := rfl
@[simp] theorem outcome_false (report : State → State) : outcome false report s = endFaulted s := rfl

/-- What an outcome can be: the report, or the end without one (R248). -/
theorem outcome_cases (marked : Bool) (report : State → State) :
    (marked = true ∧ outcome marked report s = report s) ∨ (marked = false ∧ outcome marked report s = endFaulted s) := by
  cases marked <;> simp

/-- An outcome that ends the command with a code: a clear mark withholds the code, and nothing else. -/
@[simp] theorem outcome_finish (marked : Bool) (c : StatusCode) :
    outcome marked (finish c) s = { s with engine := .idle, done := true, code := if marked then c else s.code } := by
  cases marked <;> rfl

/-- What neither the report nor the end without one changes, an outcome does not change. -/
theorem outcome_keeps {α : Type} {f : State → α} (marked : Bool) {report : State → State} (hr : f (report s) = f s)
    (he : f (endFaulted s) = f s) : f (outcome marked report s) = f s := by
  cases marked
  · exact he
  · exact hr

/-! ### halt -/

@[simp] theorem halt_cfg (c : StatusCode) : (halt c s).cfg = s.cfg := rfl
@[simp] theorem halt_cmd (c : StatusCode) : (halt c s).cmd = s.cmd := rfl
@[simp] theorem halt_engine (c : StatusCode) : (halt c s).engine = .idle := rfl
@[simp] theorem halt_done (c : StatusCode) : (halt c s).done = true := rfl
@[simp] theorem halt_fatal (c : StatusCode) : (halt c s).fatal = true := rfl
@[simp] theorem halt_overrun (c : StatusCode) : (halt c s).overrun = s.overrun := rfl
@[simp] theorem halt_code (c : StatusCode) : (halt c s).code = c := rfl
@[simp] theorem halt_arg0 (c : StatusCode) : (halt c s).arg0 = s.arg0 := rfl
@[simp] theorem halt_arg1 (c : StatusCode) : (halt c s).arg1 = s.arg1 := rfl
@[simp] theorem halt_acc (c : StatusCode) : (halt c s).acc = s.acc := rfl
@[simp] theorem halt_result0 (c : StatusCode) : (halt c s).result0 = s.result0 := rfl
@[simp] theorem halt_result1 (c : StatusCode) : (halt c s).result1 = s.result1 := rfl
@[simp] theorem halt_result2 (c : StatusCode) : (halt c s).result2 = s.result2 := rfl
@[simp] theorem halt_spec (c : StatusCode) : (halt c s).spec = s.spec := rfl
@[simp] theorem halt_fm (c : StatusCode) : (halt c s).fm = s.fm := rfl
@[simp] theorem halt_fmLen (c : StatusCode) : (halt c s).fmLen = s.fmLen := rfl
@[simp] theorem halt_rf (c : StatusCode) : (halt c s).rf = s.rf := rfl
@[simp] theorem halt_rfLen (c : StatusCode) : (halt c s).rfLen = s.rfLen := rfl
@[simp] theorem halt_rxElapsed (c : StatusCode) : (halt c s).rxElapsed = s.rxElapsed := rfl
@[simp] theorem halt_txq (c : StatusCode) : (halt c s).txq = s.txq := rfl
@[simp] theorem halt_rxq (c : StatusCode) : (halt c s).rxq = s.rxq := rfl
@[simp] theorem halt_bacc (c : StatusCode) : (halt c s).bacc = s.bacc := rfl
@[simp] theorem halt_rcur (c : StatusCode) : (halt c s).rcur = s.rcur := rfl
@[simp] theorem halt_rn (c : StatusCode) : (halt c s).rn = s.rn := rfl
@[simp] theorem halt_txRounds (c : StatusCode) : (halt c s).txRounds = s.txRounds := rfl
@[simp] theorem halt_rxPolls (c : StatusCode) : (halt c s).rxPolls = s.rxPolls := rfl
@[simp] theorem halt_faulted (c : StatusCode) : (halt c s).faulted = s.faulted := rfl
@[simp] theorem halt_env (c : StatusCode) : (halt c s).env = s.env := rfl

/-! ### setResults -/

@[simp] theorem setResults_cfg (a b c : Word) : (setResults a b c s).cfg = s.cfg := rfl
@[simp] theorem setResults_cmd (a b c : Word) : (setResults a b c s).cmd = s.cmd := rfl
@[simp] theorem setResults_engine (a b c : Word) : (setResults a b c s).engine = s.engine := rfl
@[simp] theorem setResults_done (a b c : Word) : (setResults a b c s).done = s.done := rfl
@[simp] theorem setResults_fatal (a b c : Word) : (setResults a b c s).fatal = s.fatal := rfl
@[simp] theorem setResults_overrun (a b c : Word) : (setResults a b c s).overrun = s.overrun := rfl
@[simp] theorem setResults_code (a b c : Word) : (setResults a b c s).code = s.code := rfl
@[simp] theorem setResults_arg0 (a b c : Word) : (setResults a b c s).arg0 = s.arg0 := rfl
@[simp] theorem setResults_arg1 (a b c : Word) : (setResults a b c s).arg1 = s.arg1 := rfl
@[simp] theorem setResults_acc (a b c : Word) : (setResults a b c s).acc = s.acc := rfl
@[simp] theorem setResults_result0 (a b c : Word) : (setResults a b c s).result0 = a := rfl
@[simp] theorem setResults_result1 (a b c : Word) : (setResults a b c s).result1 = b := rfl
@[simp] theorem setResults_result2 (a b c : Word) : (setResults a b c s).result2 = c := rfl
@[simp] theorem setResults_spec (a b c : Word) : (setResults a b c s).spec = s.spec := rfl
@[simp] theorem setResults_fm (a b c : Word) : (setResults a b c s).fm = s.fm := rfl
@[simp] theorem setResults_fmLen (a b c : Word) : (setResults a b c s).fmLen = s.fmLen := rfl
@[simp] theorem setResults_rf (a b c : Word) : (setResults a b c s).rf = s.rf := rfl
@[simp] theorem setResults_rfLen (a b c : Word) : (setResults a b c s).rfLen = s.rfLen := rfl
@[simp] theorem setResults_rxElapsed (a b c : Word) : (setResults a b c s).rxElapsed = s.rxElapsed := rfl
@[simp] theorem setResults_txq (a b c : Word) : (setResults a b c s).txq = s.txq := rfl
@[simp] theorem setResults_rxq (a b c : Word) : (setResults a b c s).rxq = s.rxq := rfl
@[simp] theorem setResults_bacc (a b c : Word) : (setResults a b c s).bacc = s.bacc := rfl
@[simp] theorem setResults_rcur (a b c : Word) : (setResults a b c s).rcur = s.rcur := rfl
@[simp] theorem setResults_rn (a b c : Word) : (setResults a b c s).rn = s.rn := rfl
@[simp] theorem setResults_txRounds (a b c : Word) : (setResults a b c s).txRounds = s.txRounds := rfl
@[simp] theorem setResults_rxPolls (a b c : Word) : (setResults a b c s).rxPolls = s.rxPolls := rfl
@[simp] theorem setResults_faulted (a b c : Word) : (setResults a b c s).faulted = s.faulted := rfl
@[simp] theorem setResults_env (a b c : Word) : (setResults a b c s).env = s.env := rfl

/-! ### setOverrun -/

@[simp] theorem setOverrun_cfg : (setOverrun s).cfg = s.cfg := rfl
@[simp] theorem setOverrun_cmd : (setOverrun s).cmd = s.cmd := rfl
@[simp] theorem setOverrun_engine : (setOverrun s).engine = s.engine := rfl
@[simp] theorem setOverrun_done : (setOverrun s).done = s.done := rfl
@[simp] theorem setOverrun_fatal : (setOverrun s).fatal = s.fatal := rfl
@[simp] theorem setOverrun_overrun : (setOverrun s).overrun = true := rfl
@[simp] theorem setOverrun_code : (setOverrun s).code = s.code := rfl
@[simp] theorem setOverrun_arg0 : (setOverrun s).arg0 = s.arg0 := rfl
@[simp] theorem setOverrun_arg1 : (setOverrun s).arg1 = s.arg1 := rfl
@[simp] theorem setOverrun_acc : (setOverrun s).acc = s.acc := rfl
@[simp] theorem setOverrun_result0 : (setOverrun s).result0 = s.result0 := rfl
@[simp] theorem setOverrun_result1 : (setOverrun s).result1 = s.result1 := rfl
@[simp] theorem setOverrun_result2 : (setOverrun s).result2 = s.result2 := rfl
@[simp] theorem setOverrun_spec : (setOverrun s).spec = s.spec := rfl
@[simp] theorem setOverrun_fm : (setOverrun s).fm = s.fm := rfl
@[simp] theorem setOverrun_fmLen : (setOverrun s).fmLen = s.fmLen := rfl
@[simp] theorem setOverrun_rf : (setOverrun s).rf = s.rf := rfl
@[simp] theorem setOverrun_rfLen : (setOverrun s).rfLen = s.rfLen := rfl
@[simp] theorem setOverrun_rxElapsed : (setOverrun s).rxElapsed = s.rxElapsed := rfl
@[simp] theorem setOverrun_txq : (setOverrun s).txq = s.txq := rfl
@[simp] theorem setOverrun_rxq : (setOverrun s).rxq = s.rxq := rfl
@[simp] theorem setOverrun_bacc : (setOverrun s).bacc = s.bacc := rfl
@[simp] theorem setOverrun_rcur : (setOverrun s).rcur = s.rcur := rfl
@[simp] theorem setOverrun_rn : (setOverrun s).rn = s.rn := rfl
@[simp] theorem setOverrun_txRounds : (setOverrun s).txRounds = s.txRounds := rfl
@[simp] theorem setOverrun_rxPolls : (setOverrun s).rxPolls = s.rxPolls := rfl
@[simp] theorem setOverrun_faulted : (setOverrun s).faulted = s.faulted := rfl
@[simp] theorem setOverrun_env : (setOverrun s).env = s.env := rfl

/-! ### recordReads -/

@[simp] theorem recordReads_cfg (b : Bool) : (recordReads b s).cfg = s.cfg := rfl
@[simp] theorem recordReads_cmd (b : Bool) : (recordReads b s).cmd = s.cmd := rfl
@[simp] theorem recordReads_engine (b : Bool) : (recordReads b s).engine = s.engine := rfl
@[simp] theorem recordReads_done (b : Bool) : (recordReads b s).done = s.done := rfl
@[simp] theorem recordReads_fatal (b : Bool) : (recordReads b s).fatal = s.fatal := rfl
@[simp] theorem recordReads_overrun (b : Bool) : (recordReads b s).overrun = s.overrun := rfl
@[simp] theorem recordReads_code (b : Bool) : (recordReads b s).code = s.code := rfl
@[simp] theorem recordReads_arg0 (b : Bool) : (recordReads b s).arg0 = s.arg0 := rfl
@[simp] theorem recordReads_arg1 (b : Bool) : (recordReads b s).arg1 = s.arg1 := rfl
@[simp] theorem recordReads_acc (b : Bool) : (recordReads b s).acc = s.acc := rfl
@[simp] theorem recordReads_result0 (b : Bool) : (recordReads b s).result0 = s.result0 := rfl
@[simp] theorem recordReads_result1 (b : Bool) : (recordReads b s).result1 = s.result1 := rfl
@[simp] theorem recordReads_result2 (b : Bool) : (recordReads b s).result2 = s.result2 := rfl
@[simp] theorem recordReads_spec (b : Bool) : (recordReads b s).spec = s.spec := rfl
@[simp] theorem recordReads_fm (b : Bool) : (recordReads b s).fm = s.fm := rfl
@[simp] theorem recordReads_fmLen (b : Bool) : (recordReads b s).fmLen = s.fmLen := rfl
@[simp] theorem recordReads_rf (b : Bool) : (recordReads b s).rf = s.rf := rfl
@[simp] theorem recordReads_rfLen (b : Bool) : (recordReads b s).rfLen = s.rfLen := rfl
@[simp] theorem recordReads_rxElapsed (b : Bool) : (recordReads b s).rxElapsed = s.rxElapsed := rfl
@[simp] theorem recordReads_txq (b : Bool) : (recordReads b s).txq = s.txq := rfl
@[simp] theorem recordReads_rxq (b : Bool) : (recordReads b s).rxq = s.rxq := rfl
@[simp] theorem recordReads_bacc (b : Bool) : (recordReads b s).bacc = s.bacc := rfl
@[simp] theorem recordReads_rcur (b : Bool) : (recordReads b s).rcur = s.rcur := rfl
@[simp] theorem recordReads_rn (b : Bool) : (recordReads b s).rn = s.rn := rfl
@[simp] theorem recordReads_txRounds (b : Bool) : (recordReads b s).txRounds = s.txRounds := rfl
@[simp] theorem recordReads_rxPolls (b : Bool) : (recordReads b s).rxPolls = s.rxPolls := rfl
@[simp] theorem recordReads_faulted (b : Bool) : (recordReads b s).faulted = (s.faulted || !b) := rfl
@[simp] theorem recordReads_env (b : Bool) : (recordReads b s).env = s.env := rfl

/-- Reads of marked registers record nothing. -/
@[simp] theorem recordReads_true : recordReads true s = s := by simp [recordReads]

/-! ### syncTx -/

@[simp] theorem syncTx_cfg : (syncTx s).cfg = s.cfg := rfl
@[simp] theorem syncTx_cmd : (syncTx s).cmd = s.cmd := rfl
@[simp] theorem syncTx_engine : (syncTx s).engine = s.engine := rfl
@[simp] theorem syncTx_done : (syncTx s).done = s.done := rfl
@[simp] theorem syncTx_fatal : (syncTx s).fatal = s.fatal := rfl
@[simp] theorem syncTx_overrun : (syncTx s).overrun = s.overrun := rfl
@[simp] theorem syncTx_code : (syncTx s).code = s.code := rfl
@[simp] theorem syncTx_arg0 : (syncTx s).arg0 = s.arg0 := rfl
@[simp] theorem syncTx_arg1 : (syncTx s).arg1 = s.arg1 := rfl
@[simp] theorem syncTx_acc : (syncTx s).acc = s.acc := rfl
@[simp] theorem syncTx_result0 : (syncTx s).result0 = s.result0 := rfl
@[simp] theorem syncTx_result1 : (syncTx s).result1 = s.result1 := rfl
@[simp] theorem syncTx_result2 : (syncTx s).result2 = s.result2 := rfl
@[simp] theorem syncTx_spec : (syncTx s).spec = s.spec := rfl
@[simp] theorem syncTx_fm : (syncTx s).fm = s.fm := rfl
@[simp] theorem syncTx_fmLen : (syncTx s).fmLen = s.fmLen := rfl
@[simp] theorem syncTx_rf : (syncTx s).rf = s.rf := rfl
@[simp] theorem syncTx_rfLen : (syncTx s).rfLen = s.rfLen := rfl
@[simp] theorem syncTx_rxElapsed : (syncTx s).rxElapsed = s.rxElapsed := rfl
@[simp] theorem syncTx_txq : (syncTx s).txq = syncTxFrom s.cfg.numSlots 0 s.env.takeTx.1 s.txq := rfl
@[simp] theorem syncTx_rxq : (syncTx s).rxq = s.rxq := rfl
@[simp] theorem syncTx_bacc : (syncTx s).bacc = s.bacc := rfl
@[simp] theorem syncTx_rcur : (syncTx s).rcur = s.rcur := rfl
@[simp] theorem syncTx_rn : (syncTx s).rn = s.rn := rfl
@[simp] theorem syncTx_txRounds : (syncTx s).txRounds = s.txRounds := rfl
@[simp] theorem syncTx_rxPolls : (syncTx s).rxPolls = s.rxPolls := rfl
@[simp] theorem syncTx_faulted : (syncTx s).faulted = s.faulted := rfl
@[simp] theorem syncTx_env : (syncTx s).env = s.env.takeTx.2 := rfl

/-! ### syncRx -/

@[simp] theorem syncRx_cfg : (syncRx s).cfg = s.cfg := rfl
@[simp] theorem syncRx_cmd : (syncRx s).cmd = s.cmd := rfl
@[simp] theorem syncRx_engine : (syncRx s).engine = s.engine := rfl
@[simp] theorem syncRx_done : (syncRx s).done = s.done := rfl
@[simp] theorem syncRx_fatal : (syncRx s).fatal = s.fatal := rfl
@[simp] theorem syncRx_overrun : (syncRx s).overrun = s.overrun := rfl
@[simp] theorem syncRx_code : (syncRx s).code = s.code := rfl
@[simp] theorem syncRx_arg0 : (syncRx s).arg0 = s.arg0 := rfl
@[simp] theorem syncRx_arg1 : (syncRx s).arg1 = s.arg1 := rfl
@[simp] theorem syncRx_acc : (syncRx s).acc = s.acc := rfl
@[simp] theorem syncRx_result0 : (syncRx s).result0 = s.result0 := rfl
@[simp] theorem syncRx_result1 : (syncRx s).result1 = s.result1 := rfl
@[simp] theorem syncRx_result2 : (syncRx s).result2 = s.result2 := rfl
@[simp] theorem syncRx_spec : (syncRx s).spec = s.spec := rfl
@[simp] theorem syncRx_fm : (syncRx s).fm = s.fm := rfl
@[simp] theorem syncRx_fmLen : (syncRx s).fmLen = s.fmLen := rfl
@[simp] theorem syncRx_rf : (syncRx s).rf = s.rf := rfl
@[simp] theorem syncRx_rfLen : (syncRx s).rfLen = s.rfLen := rfl
@[simp] theorem syncRx_rxElapsed : (syncRx s).rxElapsed = s.rxElapsed := rfl
@[simp] theorem syncRx_txq : (syncRx s).txq = s.txq := rfl
@[simp] theorem syncRx_rxq : (syncRx s).rxq = syncRxFrom s.cfg.numSlots s.cfg.slotBufSize 0 s.env.takeRx.1 s.rxq := rfl
@[simp] theorem syncRx_bacc : (syncRx s).bacc = s.bacc := rfl
@[simp] theorem syncRx_rcur : (syncRx s).rcur = s.rcur := rfl
@[simp] theorem syncRx_rn : (syncRx s).rn = s.rn := rfl
@[simp] theorem syncRx_txRounds : (syncRx s).txRounds = s.txRounds := rfl
@[simp] theorem syncRx_rxPolls : (syncRx s).rxPolls = s.rxPolls := rfl
@[simp] theorem syncRx_faulted : (syncRx s).faulted = s.faulted := rfl
@[simp] theorem syncRx_env : (syncRx s).env = s.env.takeRx.2 := rfl

/-! ### fillSlot -/

@[simp] theorem fillSlot_cfg (q : Nat) (t : TxQueue) (d : List Byte) : (fillSlot q t d s).cfg = s.cfg := rfl
@[simp] theorem fillSlot_cmd (q : Nat) (t : TxQueue) (d : List Byte) : (fillSlot q t d s).cmd = s.cmd := rfl
@[simp] theorem fillSlot_engine (q : Nat) (t : TxQueue) (d : List Byte) : (fillSlot q t d s).engine = s.engine := rfl
@[simp] theorem fillSlot_done (q : Nat) (t : TxQueue) (d : List Byte) : (fillSlot q t d s).done = s.done := rfl
@[simp] theorem fillSlot_fatal (q : Nat) (t : TxQueue) (d : List Byte) : (fillSlot q t d s).fatal = s.fatal := rfl
@[simp] theorem fillSlot_overrun (q : Nat) (t : TxQueue) (d : List Byte) : (fillSlot q t d s).overrun = s.overrun := rfl
@[simp] theorem fillSlot_code (q : Nat) (t : TxQueue) (d : List Byte) : (fillSlot q t d s).code = s.code := rfl
@[simp] theorem fillSlot_arg0 (q : Nat) (t : TxQueue) (d : List Byte) : (fillSlot q t d s).arg0 = s.arg0 := rfl
@[simp] theorem fillSlot_arg1 (q : Nat) (t : TxQueue) (d : List Byte) : (fillSlot q t d s).arg1 = s.arg1 := rfl
@[simp] theorem fillSlot_acc (q : Nat) (t : TxQueue) (d : List Byte) : (fillSlot q t d s).acc = s.acc := rfl
@[simp] theorem fillSlot_result0 (q : Nat) (t : TxQueue) (d : List Byte) : (fillSlot q t d s).result0 = s.result0 := rfl
@[simp] theorem fillSlot_result1 (q : Nat) (t : TxQueue) (d : List Byte) : (fillSlot q t d s).result1 = s.result1 := rfl
@[simp] theorem fillSlot_result2 (q : Nat) (t : TxQueue) (d : List Byte) : (fillSlot q t d s).result2 = s.result2 := rfl
@[simp] theorem fillSlot_spec (q : Nat) (t : TxQueue) (d : List Byte) : (fillSlot q t d s).spec = s.spec := rfl
@[simp] theorem fillSlot_fm (q : Nat) (t : TxQueue) (d : List Byte) : (fillSlot q t d s).fm = s.fm := rfl
@[simp] theorem fillSlot_fmLen (q : Nat) (t : TxQueue) (d : List Byte) : (fillSlot q t d s).fmLen = s.fmLen := rfl
@[simp] theorem fillSlot_rf (q : Nat) (t : TxQueue) (d : List Byte) : (fillSlot q t d s).rf = s.rf := rfl
@[simp] theorem fillSlot_rfLen (q : Nat) (t : TxQueue) (d : List Byte) : (fillSlot q t d s).rfLen = s.rfLen := rfl
@[simp] theorem fillSlot_rxElapsed (q : Nat) (t : TxQueue) (d : List Byte) : (fillSlot q t d s).rxElapsed = s.rxElapsed := rfl
@[simp] theorem fillSlot_rxq (q : Nat) (t : TxQueue) (d : List Byte) : (fillSlot q t d s).rxq = s.rxq := rfl
@[simp] theorem fillSlot_bacc (q : Nat) (t : TxQueue) (d : List Byte) : (fillSlot q t d s).bacc = s.bacc := rfl
@[simp] theorem fillSlot_rcur (q : Nat) (t : TxQueue) (d : List Byte) : (fillSlot q t d s).rcur = s.rcur := rfl
@[simp] theorem fillSlot_rn (q : Nat) (t : TxQueue) (d : List Byte) : (fillSlot q t d s).rn = s.rn := rfl
@[simp] theorem fillSlot_txRounds (q : Nat) (t : TxQueue) (d : List Byte) : (fillSlot q t d s).txRounds = s.txRounds := rfl
@[simp] theorem fillSlot_rxPolls (q : Nat) (t : TxQueue) (d : List Byte) : (fillSlot q t d s).rxPolls = s.rxPolls := rfl
@[simp] theorem fillSlot_faulted (q : Nat) (t : TxQueue) (d : List Byte) : (fillSlot q t d s).faulted = s.faulted := rfl
@[simp] theorem fillSlot_env (q : Nat) (t : TxQueue) (d : List Byte) : (fillSlot q t d s).env = s.env := rfl

/-! ### keepDrain -/

@[simp] theorem keepDrain_cfg (d : Drain) : (keepDrain d s).cfg = s.cfg := rfl
@[simp] theorem keepDrain_cmd (d : Drain) : (keepDrain d s).cmd = s.cmd := rfl
@[simp] theorem keepDrain_engine (d : Drain) : (keepDrain d s).engine = s.engine := rfl
@[simp] theorem keepDrain_done (d : Drain) : (keepDrain d s).done = s.done := rfl
@[simp] theorem keepDrain_fatal (d : Drain) : (keepDrain d s).fatal = s.fatal := rfl
@[simp] theorem keepDrain_overrun (d : Drain) : (keepDrain d s).overrun = s.overrun := rfl
@[simp] theorem keepDrain_code (d : Drain) : (keepDrain d s).code = s.code := rfl
@[simp] theorem keepDrain_arg0 (d : Drain) : (keepDrain d s).arg0 = s.arg0 := rfl
@[simp] theorem keepDrain_arg1 (d : Drain) : (keepDrain d s).arg1 = s.arg1 := rfl
@[simp] theorem keepDrain_acc (d : Drain) : (keepDrain d s).acc = s.acc := rfl
@[simp] theorem keepDrain_result0 (d : Drain) : (keepDrain d s).result0 = s.result0 := rfl
@[simp] theorem keepDrain_result1 (d : Drain) : (keepDrain d s).result1 = s.result1 := rfl
@[simp] theorem keepDrain_result2 (d : Drain) : (keepDrain d s).result2 = s.result2 := rfl
@[simp] theorem keepDrain_spec (d : Drain) : (keepDrain d s).spec = s.spec := rfl
@[simp] theorem keepDrain_fm (d : Drain) : (keepDrain d s).fm = s.fm := rfl
@[simp] theorem keepDrain_fmLen (d : Drain) : (keepDrain d s).fmLen = s.fmLen := rfl
@[simp] theorem keepDrain_rf (d : Drain) : (keepDrain d s).rf = d.rf := rfl
@[simp] theorem keepDrain_rfLen (d : Drain) : (keepDrain d s).rfLen = d.rfLen := rfl
@[simp] theorem keepDrain_rxElapsed (d : Drain) : (keepDrain d s).rxElapsed = s.rxElapsed := rfl
@[simp] theorem keepDrain_txq (d : Drain) : (keepDrain d s).txq = s.txq := rfl
@[simp] theorem keepDrain_rxq (d : Drain) : (keepDrain d s).rxq = s.rxq := rfl
@[simp] theorem keepDrain_bacc (d : Drain) : (keepDrain d s).bacc = s.bacc := rfl
@[simp] theorem keepDrain_rcur (d : Drain) : (keepDrain d s).rcur = d.rcur := rfl
@[simp] theorem keepDrain_rn (d : Drain) : (keepDrain d s).rn = d.rn := rfl
@[simp] theorem keepDrain_txRounds (d : Drain) : (keepDrain d s).txRounds = s.txRounds := rfl
@[simp] theorem keepDrain_rxPolls (d : Drain) : (keepDrain d s).rxPolls = s.rxPolls := rfl
@[simp] theorem keepDrain_faulted (d : Drain) : (keepDrain d s).faulted = s.faulted := rfl
@[simp] theorem keepDrain_env (d : Drain) : (keepDrain d s).env = s.env := rfl

/-! ### commit -/

@[simp] theorem commit_cfg (q : Nat) (r : RxQueue) : (commit q r s).cfg = s.cfg := rfl
@[simp] theorem commit_cmd (q : Nat) (r : RxQueue) : (commit q r s).cmd = s.cmd := rfl
@[simp] theorem commit_engine (q : Nat) (r : RxQueue) : (commit q r s).engine = s.engine := rfl
@[simp] theorem commit_done (q : Nat) (r : RxQueue) : (commit q r s).done = s.done := rfl
@[simp] theorem commit_fatal (q : Nat) (r : RxQueue) : (commit q r s).fatal = s.fatal := rfl
@[simp] theorem commit_overrun (q : Nat) (r : RxQueue) : (commit q r s).overrun = s.overrun := rfl
@[simp] theorem commit_code (q : Nat) (r : RxQueue) : (commit q r s).code = s.code := rfl
@[simp] theorem commit_arg0 (q : Nat) (r : RxQueue) : (commit q r s).arg0 = s.arg0 := rfl
@[simp] theorem commit_arg1 (q : Nat) (r : RxQueue) : (commit q r s).arg1 = s.arg1 := rfl
@[simp] theorem commit_acc (q : Nat) (r : RxQueue) : (commit q r s).acc = s.acc := rfl
@[simp] theorem commit_result0 (q : Nat) (r : RxQueue) : (commit q r s).result0 = s.result0 := rfl
@[simp] theorem commit_result1 (q : Nat) (r : RxQueue) : (commit q r s).result1 = s.result1 := rfl
@[simp] theorem commit_result2 (q : Nat) (r : RxQueue) : (commit q r s).result2 = s.result2 := rfl
@[simp] theorem commit_spec (q : Nat) (r : RxQueue) : (commit q r s).spec = s.spec := rfl
@[simp] theorem commit_fm (q : Nat) (r : RxQueue) : (commit q r s).fm = s.fm := rfl
@[simp] theorem commit_fmLen (q : Nat) (r : RxQueue) : (commit q r s).fmLen = s.fmLen := rfl
@[simp] theorem commit_rf (q : Nat) (r : RxQueue) : (commit q r s).rf = s.rf := rfl
@[simp] theorem commit_rfLen (q : Nat) (r : RxQueue) : (commit q r s).rfLen = s.rfLen := rfl
@[simp] theorem commit_rxElapsed (q : Nat) (r : RxQueue) : (commit q r s).rxElapsed = s.rxElapsed := rfl
@[simp] theorem commit_txq (q : Nat) (r : RxQueue) : (commit q r s).txq = s.txq := rfl
@[simp] theorem commit_rxq (q : Nat) (r : RxQueue) : (commit q r s).rxq = s.rxq.set q { r with head := s.rcur, cur := s.rcur } := rfl
@[simp] theorem commit_bacc (q : Nat) (r : RxQueue) : (commit q r s).bacc = s.bacc := rfl
@[simp] theorem commit_rcur (q : Nat) (r : RxQueue) : (commit q r s).rcur = s.rcur := rfl
@[simp] theorem commit_rn (q : Nat) (r : RxQueue) : (commit q r s).rn = s.rn := rfl
@[simp] theorem commit_txRounds (q : Nat) (r : RxQueue) : (commit q r s).txRounds = s.txRounds := rfl
@[simp] theorem commit_rxPolls (q : Nat) (r : RxQueue) : (commit q r s).rxPolls = s.rxPolls := rfl
@[simp] theorem commit_faulted (q : Nat) (r : RxQueue) : (commit q r s).faulted = s.faulted := rfl
@[simp] theorem commit_env (q : Nat) (r : RxQueue) : (commit q r s).env = s.env := rfl

/-! ### countPoll -/

@[simp] theorem countPoll_cfg : (countPoll s).cfg = s.cfg := rfl
@[simp] theorem countPoll_cmd : (countPoll s).cmd = s.cmd := rfl
@[simp] theorem countPoll_engine : (countPoll s).engine = s.engine := rfl
@[simp] theorem countPoll_done : (countPoll s).done = s.done := rfl
@[simp] theorem countPoll_fatal : (countPoll s).fatal = s.fatal := rfl
@[simp] theorem countPoll_overrun : (countPoll s).overrun = s.overrun := rfl
@[simp] theorem countPoll_code : (countPoll s).code = s.code := rfl
@[simp] theorem countPoll_arg0 : (countPoll s).arg0 = s.arg0 := rfl
@[simp] theorem countPoll_arg1 : (countPoll s).arg1 = s.arg1 := rfl
@[simp] theorem countPoll_acc : (countPoll s).acc = s.acc := rfl
@[simp] theorem countPoll_result0 : (countPoll s).result0 = s.result0 := rfl
@[simp] theorem countPoll_result1 : (countPoll s).result1 = s.result1 := rfl
@[simp] theorem countPoll_result2 : (countPoll s).result2 = s.result2 := rfl
@[simp] theorem countPoll_spec : (countPoll s).spec = s.spec := rfl
@[simp] theorem countPoll_fm : (countPoll s).fm = s.fm := rfl
@[simp] theorem countPoll_fmLen : (countPoll s).fmLen = s.fmLen := rfl
@[simp] theorem countPoll_rf : (countPoll s).rf = s.rf := rfl
@[simp] theorem countPoll_rfLen : (countPoll s).rfLen = s.rfLen := rfl
@[simp] theorem countPoll_rxElapsed : (countPoll s).rxElapsed = s.rxElapsed + BitVec.ofNat 64 s.cfg.pollIntervalUs := rfl
@[simp] theorem countPoll_txq : (countPoll s).txq = s.txq := rfl
@[simp] theorem countPoll_rxq : (countPoll s).rxq = s.rxq := rfl
@[simp] theorem countPoll_bacc : (countPoll s).bacc = s.bacc := rfl
@[simp] theorem countPoll_rcur : (countPoll s).rcur = s.rcur := rfl
@[simp] theorem countPoll_rn : (countPoll s).rn = s.rn := rfl
@[simp] theorem countPoll_txRounds : (countPoll s).txRounds = s.txRounds := rfl
@[simp] theorem countPoll_rxPolls : (countPoll s).rxPolls = s.rxPolls + 1 := rfl
@[simp] theorem countPoll_faulted : (countPoll s).faulted = s.faulted := rfl
@[simp] theorem countPoll_env : (countPoll s).env = s.env := rfl

/-! ### endBackoff -/

@[simp] theorem endBackoff_cfg : (endBackoff s).cfg = s.cfg := rfl
@[simp] theorem endBackoff_cmd : (endBackoff s).cmd = s.cmd := rfl
@[simp] theorem endBackoff_engine : (endBackoff s).engine = .sendLoop := rfl
@[simp] theorem endBackoff_done : (endBackoff s).done = s.done := rfl
@[simp] theorem endBackoff_fatal : (endBackoff s).fatal = s.fatal := rfl
@[simp] theorem endBackoff_overrun : (endBackoff s).overrun = s.overrun := rfl
@[simp] theorem endBackoff_code : (endBackoff s).code = s.code := rfl
@[simp] theorem endBackoff_arg0 : (endBackoff s).arg0 = s.arg0 := rfl
@[simp] theorem endBackoff_arg1 : (endBackoff s).arg1 = s.arg1 := rfl
@[simp] theorem endBackoff_acc : (endBackoff s).acc = s.acc := rfl
@[simp] theorem endBackoff_result0 : (endBackoff s).result0 = s.result0 := rfl
@[simp] theorem endBackoff_result1 : (endBackoff s).result1 = s.result1 := rfl
@[simp] theorem endBackoff_result2 : (endBackoff s).result2 = s.result2 := rfl
@[simp] theorem endBackoff_spec : (endBackoff s).spec = s.spec := rfl
@[simp] theorem endBackoff_fm : (endBackoff s).fm = s.fm := rfl
@[simp] theorem endBackoff_fmLen : (endBackoff s).fmLen = s.fmLen := rfl
@[simp] theorem endBackoff_rf : (endBackoff s).rf = s.rf := rfl
@[simp] theorem endBackoff_rfLen : (endBackoff s).rfLen = s.rfLen := rfl
@[simp] theorem endBackoff_rxElapsed : (endBackoff s).rxElapsed = s.rxElapsed := rfl
@[simp] theorem endBackoff_txq : (endBackoff s).txq = s.txq := rfl
@[simp] theorem endBackoff_rxq : (endBackoff s).rxq = s.rxq := rfl
@[simp] theorem endBackoff_bacc : (endBackoff s).bacc = s.bacc := rfl
@[simp] theorem endBackoff_rcur : (endBackoff s).rcur = s.rcur := rfl
@[simp] theorem endBackoff_rn : (endBackoff s).rn = s.rn := rfl
@[simp] theorem endBackoff_txRounds : (endBackoff s).txRounds = BitVec.ofNat 32 (min (s.txRounds.toNat + 1) 4294967295) := rfl
@[simp] theorem endBackoff_rxPolls : (endBackoff s).rxPolls = s.rxPolls := rfl
@[simp] theorem endBackoff_faulted : (endBackoff s).faulted = s.faulted := rfl
@[simp] theorem endBackoff_env : (endBackoff s).env = s.env := rfl

/-! ### placeFrame -/

@[simp] theorem placeFrame_cfg (d : List Byte) (l : Nat) (ipc udpc : Half) (sum : Word) : (placeFrame d l ipc udpc sum s).cfg = s.cfg := rfl
@[simp] theorem placeFrame_cmd (d : List Byte) (l : Nat) (ipc udpc : Half) (sum : Word) : (placeFrame d l ipc udpc sum s).cmd = s.cmd := rfl
@[simp] theorem placeFrame_engine (d : List Byte) (l : Nat) (ipc udpc : Half) (sum : Word) : (placeFrame d l ipc udpc sum s).engine = s.engine := rfl
@[simp] theorem placeFrame_done (d : List Byte) (l : Nat) (ipc udpc : Half) (sum : Word) : (placeFrame d l ipc udpc sum s).done = s.done := rfl
@[simp] theorem placeFrame_fatal (d : List Byte) (l : Nat) (ipc udpc : Half) (sum : Word) : (placeFrame d l ipc udpc sum s).fatal = s.fatal := rfl
@[simp] theorem placeFrame_overrun (d : List Byte) (l : Nat) (ipc udpc : Half) (sum : Word) : (placeFrame d l ipc udpc sum s).overrun = s.overrun := rfl
@[simp] theorem placeFrame_code (d : List Byte) (l : Nat) (ipc udpc : Half) (sum : Word) : (placeFrame d l ipc udpc sum s).code = s.code := rfl
@[simp] theorem placeFrame_arg0 (d : List Byte) (l : Nat) (ipc udpc : Half) (sum : Word) : (placeFrame d l ipc udpc sum s).arg0 = s.arg0 := rfl
@[simp] theorem placeFrame_arg1 (d : List Byte) (l : Nat) (ipc udpc : Half) (sum : Word) : (placeFrame d l ipc udpc sum s).arg1 = s.arg1 := rfl
@[simp] theorem placeFrame_acc (d : List Byte) (l : Nat) (ipc udpc : Half) (sum : Word) : (placeFrame d l ipc udpc sum s).acc = s.acc := rfl
@[simp] theorem placeFrame_result0 (d : List Byte) (l : Nat) (ipc udpc : Half) (sum : Word) : (placeFrame d l ipc udpc sum s).result0 = ipc.setWidth 32 := rfl
@[simp] theorem placeFrame_result1 (d : List Byte) (l : Nat) (ipc udpc : Half) (sum : Word) : (placeFrame d l ipc udpc sum s).result1 = udpc.setWidth 32 := rfl
@[simp] theorem placeFrame_result2 (d : List Byte) (l : Nat) (ipc udpc : Half) (sum : Word) : (placeFrame d l ipc udpc sum s).result2 = s.result2 := rfl
@[simp] theorem placeFrame_spec (d : List Byte) (l : Nat) (ipc udpc : Half) (sum : Word) : (placeFrame d l ipc udpc sum s).spec = s.spec := rfl
@[simp] theorem placeFrame_fm (d : List Byte) (l : Nat) (ipc udpc : Half) (sum : Word) : (placeFrame d l ipc udpc sum s).fm = Table.writeRun s.fm 0 d := rfl
@[simp] theorem placeFrame_fmLen (d : List Byte) (l : Nat) (ipc udpc : Half) (sum : Word) : (placeFrame d l ipc udpc sum s).fmLen = BitVec.ofNat 32 l := rfl
@[simp] theorem placeFrame_rf (d : List Byte) (l : Nat) (ipc udpc : Half) (sum : Word) : (placeFrame d l ipc udpc sum s).rf = s.rf := rfl
@[simp] theorem placeFrame_rfLen (d : List Byte) (l : Nat) (ipc udpc : Half) (sum : Word) : (placeFrame d l ipc udpc sum s).rfLen = s.rfLen := rfl
@[simp] theorem placeFrame_rxElapsed (d : List Byte) (l : Nat) (ipc udpc : Half) (sum : Word) : (placeFrame d l ipc udpc sum s).rxElapsed = s.rxElapsed := rfl
@[simp] theorem placeFrame_txq (d : List Byte) (l : Nat) (ipc udpc : Half) (sum : Word) : (placeFrame d l ipc udpc sum s).txq = s.txq := rfl
@[simp] theorem placeFrame_rxq (d : List Byte) (l : Nat) (ipc udpc : Half) (sum : Word) : (placeFrame d l ipc udpc sum s).rxq = s.rxq := rfl
@[simp] theorem placeFrame_bacc (d : List Byte) (l : Nat) (ipc udpc : Half) (sum : Word) : (placeFrame d l ipc udpc sum s).bacc = sum := rfl
@[simp] theorem placeFrame_rcur (d : List Byte) (l : Nat) (ipc udpc : Half) (sum : Word) : (placeFrame d l ipc udpc sum s).rcur = s.rcur := rfl
@[simp] theorem placeFrame_rn (d : List Byte) (l : Nat) (ipc udpc : Half) (sum : Word) : (placeFrame d l ipc udpc sum s).rn = s.rn := rfl
@[simp] theorem placeFrame_txRounds (d : List Byte) (l : Nat) (ipc udpc : Half) (sum : Word) : (placeFrame d l ipc udpc sum s).txRounds = s.txRounds := rfl
@[simp] theorem placeFrame_rxPolls (d : List Byte) (l : Nat) (ipc udpc : Half) (sum : Word) : (placeFrame d l ipc udpc sum s).rxPolls = s.rxPolls := rfl
@[simp] theorem placeFrame_faulted (d : List Byte) (l : Nat) (ipc udpc : Half) (sum : Word) : (placeFrame d l ipc udpc sum s).faulted = s.faulted := rfl
@[simp] theorem placeFrame_env (d : List Byte) (l : Nat) (ipc udpc : Half) (sum : Word) : (placeFrame d l ipc udpc sum s).env = s.env := rfl

/-! ### forgetFrame -/

@[simp] theorem forgetFrame_cfg : (forgetFrame s).cfg = s.cfg := rfl
@[simp] theorem forgetFrame_cmd : (forgetFrame s).cmd = s.cmd := rfl
@[simp] theorem forgetFrame_engine : (forgetFrame s).engine = s.engine := rfl
@[simp] theorem forgetFrame_done : (forgetFrame s).done = s.done := rfl
@[simp] theorem forgetFrame_fatal : (forgetFrame s).fatal = s.fatal := rfl
@[simp] theorem forgetFrame_overrun : (forgetFrame s).overrun = s.overrun := rfl
@[simp] theorem forgetFrame_code : (forgetFrame s).code = s.code := rfl
@[simp] theorem forgetFrame_arg0 : (forgetFrame s).arg0 = s.arg0 := rfl
@[simp] theorem forgetFrame_arg1 : (forgetFrame s).arg1 = s.arg1 := rfl
@[simp] theorem forgetFrame_acc : (forgetFrame s).acc = s.acc := rfl
@[simp] theorem forgetFrame_result0 : (forgetFrame s).result0 = s.result0 := rfl
@[simp] theorem forgetFrame_result1 : (forgetFrame s).result1 = s.result1 := rfl
@[simp] theorem forgetFrame_result2 : (forgetFrame s).result2 = s.result2 := rfl
@[simp] theorem forgetFrame_spec : (forgetFrame s).spec = s.spec := rfl
@[simp] theorem forgetFrame_fm : (forgetFrame s).fm = [] := rfl
@[simp] theorem forgetFrame_fmLen : (forgetFrame s).fmLen = Config.freeFmLen s.env.draws := rfl
@[simp] theorem forgetFrame_rf : (forgetFrame s).rf = s.rf := rfl
@[simp] theorem forgetFrame_rfLen : (forgetFrame s).rfLen = s.rfLen := rfl
@[simp] theorem forgetFrame_rxElapsed : (forgetFrame s).rxElapsed = s.rxElapsed := rfl
@[simp] theorem forgetFrame_txq : (forgetFrame s).txq = s.txq := rfl
@[simp] theorem forgetFrame_rxq : (forgetFrame s).rxq = s.rxq := rfl
@[simp] theorem forgetFrame_bacc : (forgetFrame s).bacc = s.bacc := rfl
@[simp] theorem forgetFrame_rcur : (forgetFrame s).rcur = s.rcur := rfl
@[simp] theorem forgetFrame_rn : (forgetFrame s).rn = s.rn := rfl
@[simp] theorem forgetFrame_txRounds : (forgetFrame s).txRounds = s.txRounds := rfl
@[simp] theorem forgetFrame_rxPolls : (forgetFrame s).rxPolls = s.rxPolls := rfl
@[simp] theorem forgetFrame_faulted : (forgetFrame s).faulted = s.faulted := rfl
@[simp] theorem forgetFrame_env : (forgetFrame s).env = s.env.drawn := rfl

/-! ### performed -/

@[simp] theorem performed_cfg (op : HostOp) (rest : List HostOp) : (s.performed op rest).cfg = s.cfg := rfl
@[simp] theorem performed_cmd (op : HostOp) (rest : List HostOp) : (s.performed op rest).cmd = s.cmd := rfl
@[simp] theorem performed_engine (op : HostOp) (rest : List HostOp) : (s.performed op rest).engine = s.engine := rfl
@[simp] theorem performed_done (op : HostOp) (rest : List HostOp) : (s.performed op rest).done = s.done := rfl
@[simp] theorem performed_fatal (op : HostOp) (rest : List HostOp) : (s.performed op rest).fatal = s.fatal := rfl
@[simp] theorem performed_overrun (op : HostOp) (rest : List HostOp) : (s.performed op rest).overrun = s.overrun := rfl
@[simp] theorem performed_code (op : HostOp) (rest : List HostOp) : (s.performed op rest).code = s.code := rfl
@[simp] theorem performed_arg0 (op : HostOp) (rest : List HostOp) : (s.performed op rest).arg0 = s.arg0 := rfl
@[simp] theorem performed_arg1 (op : HostOp) (rest : List HostOp) : (s.performed op rest).arg1 = s.arg1 := rfl
@[simp] theorem performed_acc (op : HostOp) (rest : List HostOp) : (s.performed op rest).acc = s.acc := rfl
@[simp] theorem performed_result0 (op : HostOp) (rest : List HostOp) : (s.performed op rest).result0 = s.result0 := rfl
@[simp] theorem performed_result1 (op : HostOp) (rest : List HostOp) : (s.performed op rest).result1 = s.result1 := rfl
@[simp] theorem performed_result2 (op : HostOp) (rest : List HostOp) : (s.performed op rest).result2 = s.result2 := rfl
@[simp] theorem performed_spec (op : HostOp) (rest : List HostOp) : (s.performed op rest).spec = s.spec := rfl
@[simp] theorem performed_fm (op : HostOp) (rest : List HostOp) : (s.performed op rest).fm = s.fm := rfl
@[simp] theorem performed_fmLen (op : HostOp) (rest : List HostOp) : (s.performed op rest).fmLen = s.fmLen := rfl
@[simp] theorem performed_rf (op : HostOp) (rest : List HostOp) : (s.performed op rest).rf = s.rf := rfl
@[simp] theorem performed_rfLen (op : HostOp) (rest : List HostOp) : (s.performed op rest).rfLen = s.rfLen := rfl
@[simp] theorem performed_rxElapsed (op : HostOp) (rest : List HostOp) : (s.performed op rest).rxElapsed = s.rxElapsed := rfl
@[simp] theorem performed_txq (op : HostOp) (rest : List HostOp) : (s.performed op rest).txq = s.txq := rfl
@[simp] theorem performed_rxq (op : HostOp) (rest : List HostOp) : (s.performed op rest).rxq = s.rxq := rfl
@[simp] theorem performed_bacc (op : HostOp) (rest : List HostOp) : (s.performed op rest).bacc = s.bacc := rfl
@[simp] theorem performed_rcur (op : HostOp) (rest : List HostOp) : (s.performed op rest).rcur = s.rcur := rfl
@[simp] theorem performed_rn (op : HostOp) (rest : List HostOp) : (s.performed op rest).rn = s.rn := rfl
@[simp] theorem performed_txRounds (op : HostOp) (rest : List HostOp) : (s.performed op rest).txRounds = s.txRounds := rfl
@[simp] theorem performed_rxPolls (op : HostOp) (rest : List HostOp) : (s.performed op rest).rxPolls = s.rxPolls := rfl
@[simp] theorem performed_faulted (op : HostOp) (rest : List HostOp) : (s.performed op rest).faulted = s.faulted := rfl
@[simp] theorem performed_env (op : HostOp) (rest : List HostOp) : (s.performed op rest).env = { s.env with host := rest, lastOp := some op } := rfl

/-! ### withStream -/

@[simp] theorem withStream_cfg (rest : List HostOp) : (s.withStream rest).cfg = s.cfg := rfl
@[simp] theorem withStream_cmd (rest : List HostOp) : (s.withStream rest).cmd = s.cmd := rfl
@[simp] theorem withStream_engine (rest : List HostOp) : (s.withStream rest).engine = s.engine := rfl
@[simp] theorem withStream_done (rest : List HostOp) : (s.withStream rest).done = s.done := rfl
@[simp] theorem withStream_fatal (rest : List HostOp) : (s.withStream rest).fatal = s.fatal := rfl
@[simp] theorem withStream_overrun (rest : List HostOp) : (s.withStream rest).overrun = s.overrun := rfl
@[simp] theorem withStream_code (rest : List HostOp) : (s.withStream rest).code = s.code := rfl
@[simp] theorem withStream_arg0 (rest : List HostOp) : (s.withStream rest).arg0 = s.arg0 := rfl
@[simp] theorem withStream_arg1 (rest : List HostOp) : (s.withStream rest).arg1 = s.arg1 := rfl
@[simp] theorem withStream_acc (rest : List HostOp) : (s.withStream rest).acc = s.acc := rfl
@[simp] theorem withStream_result0 (rest : List HostOp) : (s.withStream rest).result0 = s.result0 := rfl
@[simp] theorem withStream_result1 (rest : List HostOp) : (s.withStream rest).result1 = s.result1 := rfl
@[simp] theorem withStream_result2 (rest : List HostOp) : (s.withStream rest).result2 = s.result2 := rfl
@[simp] theorem withStream_spec (rest : List HostOp) : (s.withStream rest).spec = s.spec := rfl
@[simp] theorem withStream_fm (rest : List HostOp) : (s.withStream rest).fm = s.fm := rfl
@[simp] theorem withStream_fmLen (rest : List HostOp) : (s.withStream rest).fmLen = s.fmLen := rfl
@[simp] theorem withStream_rf (rest : List HostOp) : (s.withStream rest).rf = s.rf := rfl
@[simp] theorem withStream_rfLen (rest : List HostOp) : (s.withStream rest).rfLen = s.rfLen := rfl
@[simp] theorem withStream_rxElapsed (rest : List HostOp) : (s.withStream rest).rxElapsed = s.rxElapsed := rfl
@[simp] theorem withStream_txq (rest : List HostOp) : (s.withStream rest).txq = s.txq := rfl
@[simp] theorem withStream_rxq (rest : List HostOp) : (s.withStream rest).rxq = s.rxq := rfl
@[simp] theorem withStream_bacc (rest : List HostOp) : (s.withStream rest).bacc = s.bacc := rfl
@[simp] theorem withStream_rcur (rest : List HostOp) : (s.withStream rest).rcur = s.rcur := rfl
@[simp] theorem withStream_rn (rest : List HostOp) : (s.withStream rest).rn = s.rn := rfl
@[simp] theorem withStream_txRounds (rest : List HostOp) : (s.withStream rest).txRounds = s.txRounds := rfl
@[simp] theorem withStream_rxPolls (rest : List HostOp) : (s.withStream rest).rxPolls = s.rxPolls := rfl
@[simp] theorem withStream_faulted (rest : List HostOp) : (s.withStream rest).faulted = s.faulted := rfl
@[simp] theorem withStream_env (rest : List HostOp) : (s.withStream rest).env = { s.env with host := rest } := rfl

end Sys2Proof.Machine
end

