-- ==== Sys2Proof/Laws/Memory.lean ====
section
/-! SUPPORT. The laws of tables and byte memories: reads after writes, runs, the canonical form, and what a run of reads says. -/

namespace Sys2Proof.Machine

variable {α : Type}

/-! ### Seeking -/

@[simp] theorem Table.seek_nil (a : Nat) : Table.seek ([] : Table α) a = [] := rfl

theorem Table.seek_cons (c : Nat × α) (m : Table α) (a : Nat) :
    Table.seek (c :: m) a = if c.1 < a then Table.seek m a else c :: m := by
  by_cases h : c.1 < a <;> simp [Table.seek, h]

theorem Table.seek_seek (m : Table α) {a b : Nat} (h : a ≤ b) :
    Table.seek (Table.seek m a) b = Table.seek m b := by
  induction m with
  | nil => rfl
  | cons c m ih =>
    rw [Table.seek_cons c m a]
    by_cases hc : c.1 < a
    · have hb : c.1 < b := by omega
      rw [if_pos hc, ih, Table.seek_cons, if_pos hb]
    · rw [if_neg hc]

/-- Where a seek stops, the entry's index has reached the place sought. -/
theorem Table.le_of_seek_eq_cons {m rest : Table α} {a : Nat} {c : Nat × α} (h : Table.seek m a = c :: rest) : a ≤ c.1 := by
  induction m with
  | nil => simp at h
  | cons d m ih =>
    rw [Table.seek_cons] at h
    split at h
    · exact ih h
    · injection h with h1 h2
      subst h1
      omega

/-- Seeking past the entry a seek stopped at goes on from the rest. -/
theorem Table.seek_succ_of_eq {m rest : Table α} {a : Nat} {c : Nat × α} (h : Table.seek m a = c :: rest) (hc : c.1 = a)
    {b : Nat} (hb : a < b) : Table.seek m b = Table.seek rest b := by
  have h1 : Table.seek (Table.seek m a) b = Table.seek m b := Table.seek_seek m (by omega)
  rw [← h1, h, Table.seek_cons, if_pos (by omega)]

theorem Table.read_of_seek {m m' : Table α} {a : Nat} (h : Table.seek m a = Table.seek m' a) :
    Table.read m a = Table.read m' a := by
  simp only [Table.read, h]

@[simp] theorem Table.read_nil (a : Nat) : Table.read ([] : Table α) a = none := rfl

theorem Table.read_cons (c : Nat × α) (m : Table α) (a : Nat) :
    Table.read (c :: m) a = if c.1 < a then Table.read m a else if c.1 = a then some c.2 else none := by
  by_cases h : c.1 < a <;> simp [Table.read, Table.seek_cons, h]

theorem Table.read_of_seek_eq {m rest : Table α} {a : Nat} {c : Nat × α} (h : Table.seek m a = c :: rest) :
    Table.read m a = if c.1 = a then some c.2 else none := by
  unfold Table.read
  rw [h]

theorem Table.read_of_seek_eq_nil {m : Table α} {a : Nat} (h : Table.seek m a = []) : Table.read m a = none := by
  unfold Table.read
  rw [h]

/-! ### Writing a run -/

@[simp] theorem Table.length_number (a : Nat) (vs : List α) : (Table.number a vs).length = vs.length := by
  induction vs generalizing a with
  | nil => rfl
  | cons v vs ih => simp [Table.number, ih]

theorem Table.mem_number {a : Nat} {vs : List α} {c : Nat × α} (h : c ∈ Table.number a vs) :
    a ≤ c.1 ∧ c.1 < a + vs.length := by
  induction vs generalizing a with
  | nil => simp [Table.number] at h
  | cons v vs ih =>
    simp only [Table.number, List.mem_cons] at h
    rcases h with rfl | h
    · simp
    · have := ih h
      simp only [List.length_cons]
      omega

theorem Table.pairwise_number (a : Nat) (vs : List α) : (Table.number a vs).Pairwise (fun c d => c.1 < d.1) := by
  induction vs generalizing a with
  | nil => simp [Table.number]
  | cons v vs ih =>
    simp only [Table.number, List.pairwise_cons]
    exact ⟨fun c hc => (Table.mem_number hc).1, ih _⟩

/-- From a run's start on: the run, then the entries after it. -/
theorem Table.read_number_append {a x : Nat} (h : a ≤ x) (vs : List α) (m : Table α) :
    Table.read (Table.number a vs ++ m) x = if x < a + vs.length then vs[x - a]? else Table.read m x := by
  induction vs generalizing a with
  | nil => simp [Table.number, show ¬ x < a by omega]
  | cons v vs ih =>
    simp only [Table.number, List.cons_append, Table.read_cons, List.length_cons]
    by_cases h1 : a < x
    · have e : x - a = (x - (a + 1)) + 1 := by omega
      rw [if_pos h1, ih (by omega), e, List.getElem?_cons_succ]
      by_cases h2 : x < a + (vs.length + 1)
      · rw [if_pos (by omega), if_pos h2]
      · rw [if_neg (by omega), if_neg h2]
    · have e : a = x := by omega
      subst e
      simp

theorem Table.seek_takeWhile_append (m m' : Table α) {a x : Nat} (h : a ≤ x) :
    Table.seek (m.takeWhile (fun c => c.1 < a) ++ m') x = Table.seek m' x := by
  induction m with
  | nil => rfl
  | cons c m ih =>
    by_cases hc : c.1 < a
    · have : c.1 < x := by omega
      simp [hc, Table.seek_cons, this, ih]
    · simp [hc]

theorem Table.takeWhile_append_seek (m : Table α) (a : Nat) :
    m.takeWhile (fun c => c.1 < a) ++ Table.seek m a = m := List.takeWhile_append_dropWhile

/-- Below the run, a table that starts with the entries below it reads as the whole table does. -/
theorem Table.read_takeWhile_append (m m' : Table α) {a x : Nat} (h : x < a) (hm : ∀ c ∈ m', a ≤ c.1) :
    Table.read (m.takeWhile (fun c => c.1 < a) ++ m') x = Table.read m x := by
  induction m with
  | nil =>
    cases m' with
    | nil => rfl
    | cons c m' =>
      have := hm c (by simp)
      simp [Table.read_cons, show ¬ c.1 < x by omega, show c.1 ≠ x by omega]
  | cons c m ih =>
    by_cases hc : c.1 < a
    · simp only [List.takeWhile_cons, hc, decide_true, if_true, List.cons_append, Table.read_cons, ih]
    · simp only [List.takeWhile_cons, hc, decide_false, Bool.false_eq_true, if_false, List.nil_append]
      rw [Table.read_cons, if_neg (by omega), if_neg (by omega)]
      cases m' with
      | nil => rfl
      | cons d m' =>
        have := hm d (by simp)
        simp [Table.read_cons, show ¬ d.1 < x by omega, show d.1 ≠ x by omega]

theorem Table.le_of_mem_seek {m : Table α} (hm : m.Pairwise (fun c d => c.1 < d.1)) {a : Nat} {c : Nat × α}
    (h : c ∈ Table.seek m a) : a ≤ c.1 := by
  cases e : Table.seek m a with
  | nil => simp [e] at h
  | cons d rest =>
    have h1 := Table.le_of_seek_eq_cons e
    have h2 : (Table.seek m a).Pairwise (fun c d => c.1 < d.1) := hm.sublist (List.dropWhile_sublist _)
    rw [e] at h h2
    rcases List.mem_cons.1 h with rfl | h
    · exact h1
    · have := (List.pairwise_cons.1 h2).1 c h
      omega

/-- An empty run writes nothing. -/
@[simp] theorem Table.writeRun_nil (m : Table α) (a : Nat) : Table.writeRun m a [] = m := by
  simp [Table.writeRun, Table.number, Table.takeWhile_append_seek]

/-- A read after a write of a run: the run's value inside it, the old value outside it. -/
theorem Table.read_writeRun {m : Table α} (hm : m.Pairwise (fun c d => c.1 < d.1)) (a : Nat) (vs : List α) (x : Nat) :
    Table.read (Table.writeRun m a vs) x =
      if a ≤ x ∧ x < a + vs.length then vs[x - a]? else Table.read m x := by
  by_cases h0 : vs = []
  · subst h0
    rw [Table.writeRun_nil, if_neg]
    simp
  have hseek : ∀ c ∈ Table.seek m (a + vs.length), a + vs.length ≤ c.1 := fun c hc => Table.le_of_mem_seek hm hc
  unfold Table.writeRun
  rw [List.append_assoc]
  by_cases h1 : x < a
  · rw [if_neg (by omega), Table.read_takeWhile_append m _ h1]
    intro c hc
    rcases List.mem_append.1 hc with hc | hc
    · exact (Table.mem_number hc).1
    · have := hseek c hc
      omega
  · rw [Table.read_of_seek (Table.seek_takeWhile_append m _ (by omega : a ≤ x)), Table.read_number_append (by omega)]
    by_cases h2 : x < a + vs.length
    · rw [if_pos h2, if_pos (by omega)]
    · rw [if_neg h2, if_neg (by omega)]
      exact Table.read_of_seek (Table.seek_seek m (by omega))

theorem Table.read_write {m : Table α} (hm : m.Pairwise (fun c d => c.1 < d.1)) (a x : Nat) (v : α) :
    Table.read (Table.write m a v) x = if x = a then some v else Table.read m x := by
  unfold Table.write
  rw [Table.read_writeRun hm]
  by_cases h : x = a
  · subst h
    simp
  · rw [if_neg h, if_neg]
    simp only [List.length_singleton]
    omega

/-- Every write of a run keeps the canonical form. -/
theorem Table.wf_writeRun {cap : Nat} {m : Table α} (hm : Table.wf cap m) {a : Nat} {vs : List α} (h : a + vs.length ≤ cap) :
    Table.wf cap (Table.writeRun m a vs) := by
  have hlow : ∀ c ∈ m.takeWhile (fun c => c.1 < a), c.1 < a := by
    intro c hc
    have := List.mem_takeWhile_imp hc
    simpa using this
  have hhigh : ∀ c ∈ Table.seek m (a + vs.length), a + vs.length ≤ c.1 := fun c hc => Table.le_of_mem_seek hm.1 hc
  refine ⟨?_, ?_⟩
  · unfold Table.writeRun
    rw [List.pairwise_append, List.pairwise_append]
    refine ⟨⟨hm.1.sublist (List.takeWhile_sublist _), Table.pairwise_number a vs, ?_⟩,
      hm.1.sublist (List.dropWhile_sublist _), ?_⟩
    · intro c hc d hd
      have h1 := hlow c hc
      have h2 := Table.mem_number hd
      omega
    · intro c hc d hd
      have h2 := hhigh d hd
      rcases List.mem_append.1 hc with hc | hc
      · have := hlow c hc
        omega
      · have := Table.mem_number hc
        omega
  · intro c hc
    unfold Table.writeRun at hc
    rcases List.mem_append.1 hc with hc | hc
    · rcases List.mem_append.1 hc with hc | hc
      · exact hm.2 c ((List.takeWhile_sublist _).subset hc)
      · have := Table.mem_number hc
        omega
    · exact hm.2 c ((List.dropWhile_sublist _).subset hc)

theorem Table.wf_write {cap : Nat} {m : Table α} (hm : Table.wf cap m) {a : Nat} (h : a < cap) (v : α) :
    Table.wf cap (Table.write m a v) := Table.wf_writeRun hm (by simpa using h)

@[simp] theorem Table.wf_nil (cap : Nat) : Table.wf cap ([] : Table α) := by simp [Table.wf]

/-- The entries of a table after a write are the new one and old ones. -/
theorem Table.mem_write {m : Table α} {a : Nat} {v : α} {c : Nat × α} (h : c ∈ Table.write m a v) : c = (a, v) ∨ c ∈ m := by
  unfold Table.write Table.writeRun at h
  rcases List.mem_append.1 h with h | h
  · rcases List.mem_append.1 h with h | h
    · exact .inr ((List.takeWhile_sublist _).subset h)
    · simp only [Table.number, List.mem_singleton] at h
      exact .inl h
  · exact .inr ((List.dropWhile_sublist _).subset h)

/-- What a read finds is an entry of the table. -/
theorem Table.mem_of_read {m : Table α} {a : Nat} {v : α} (h : Table.read m a = some v) : (a, v) ∈ m := by
  induction m with
  | nil => simp at h
  | cons c m ih =>
    rw [Table.read_cons] at h
    split at h
    · exact List.mem_cons_of_mem _ (ih h)
    · split at h
      · rename_i h2
        injection h with h
        subst h h2
        simp
      · simp at h

/-- In canonical form every entry is what a read of its index finds. -/
theorem Table.read_of_mem {m : Table α} (hm : m.Pairwise (fun c d => c.1 < d.1)) {a : Nat} {v : α} (h : (a, v) ∈ m) :
    Table.read m a = some v := by
  induction m with
  | nil => simp at h
  | cons c m ih =>
    rw [List.pairwise_cons] at hm
    rw [Table.read_cons]
    rcases List.mem_cons.1 h with rfl | h
    · simp
    · have := hm.1 _ h
      rw [if_pos this, ih hm.2 h]

/-- Canonical tables that read alike everywhere are the same data. -/
theorem Table.ext_of_read {m m' : Table α} (hm : m.Pairwise (fun c d => c.1 < d.1)) (hm' : m'.Pairwise (fun c d => c.1 < d.1))
    (h : ∀ a, Table.read m a = Table.read m' a) : m = m' := by
  induction m generalizing m' with
  | nil =>
    cases m' with
    | nil => rfl
    | cons c m' =>
      have := h c.1
      simp [Table.read_cons] at this
  | cons c m ih =>
    cases m' with
    | nil =>
      have := h c.1
      simp [Table.read_cons] at this
    | cons d m' =>
      have hc : Table.read (d :: m') c.1 = some c.2 := by rw [← h]; simp [Table.read_cons]
      have hd : Table.read (c :: m) d.1 = some d.2 := by rw [h]; simp [Table.read_cons]
      have hcd : c = d := by
        rw [Table.read_cons] at hc hd
        by_cases e : d.1 < c.1
        · rw [if_neg (by omega)] at hd
          split at hd
          · omega
          · simp at hd
        · by_cases e2 : c.1 < d.1
          · rw [if_neg (by omega)] at hc
            split at hc
            · omega
            · simp at hc
          · have e3 : d.1 = c.1 := by omega
            rw [if_neg e, if_pos e3] at hc
            injection hc with hc
            exact Prod.ext e3.symm hc.symm
      subst hcd
      rw [List.pairwise_cons] at hm hm'
      congr 1
      refine ih hm.2 hm'.2 fun a => ?_
      have := h a
      rw [Table.read_cons, Table.read_cons] at this
      by_cases e : c.1 < a
      · rwa [if_pos e, if_pos e] at this
      · have none_of : ∀ l : Table α, (∀ d ∈ l, c.1 < d.1) → Table.read l a = none := by
          intro l hl
          cases hr : Table.read l a with
          | none => rfl
          | some v =>
            have := hl _ (Table.mem_of_read hr)
            simp only at this
            omega
        rw [none_of m hm.1, none_of m' hm'.1]

/-! ### Reading a run -/

/-- A run of reads depends only on the entries from its start on. -/
theorem Table.readRun_of_seek {m m' : Table α} {n a : Nat} (h : Table.seek m a = Table.seek m' a) :
    Table.readRun n a m = Table.readRun n a m' := by
  cases n with
  | zero => rfl
  | succ n =>
    unfold Table.readRun
    rw [h]

/-- One read, then the rest: the run read entry by entry. -/
theorem Table.readRun_succ (n a : Nat) (m : Table α) :
    Table.readRun (n + 1) a m =
      match Table.read m a with
      | none => .error a
      | some v =>
        match Table.readRun n (a + 1) m with
        | .ok vs => .ok (v :: vs)
        | .error b => .error b := by
  rw [Table.readRun]
  cases h : Table.seek m a with
  | nil => rw [Table.read_of_seek_eq_nil h]
  | cons c rest =>
    rw [Table.read_of_seek_eq h]
    by_cases hc : c.1 = a
    · have hr : Table.readRun n (a + 1) rest = Table.readRun n (a + 1) m :=
        Table.readRun_of_seek (Table.seek_succ_of_eq h hc (Nat.lt_add_one a)).symm
      cases h2 : Table.readRun n (a + 1) m <;> simp only [hc, if_true, hr, h2]
    · simp only [hc, if_false]

/-- A run is read exactly when each of its values is. -/
theorem Table.readRun_eq_ok {n a : Nat} {m : Table α} {vs : List α} :
    Table.readRun n a m = .ok vs ↔ vs.length = n ∧ ∀ i < n, Table.read m (a + i) = vs[i]? := by
  induction n generalizing a vs with
  | zero =>
    simp only [Table.readRun, Except.ok.injEq, Nat.not_lt_zero, false_implies, implies_true, and_true,
      List.length_eq_zero_iff]
    exact eq_comm
  | succ n ih =>
    rw [Table.readRun_succ]
    constructor
    · intro h
      split at h
      · simp at h
      · rename_i v hv
        split at h
        · rename_i ws hws
          injection h with h
          subst h
          obtain ⟨h1, h2⟩ := ih.1 hws
          refine ⟨by simp [h1], fun i hi => ?_⟩
          cases i with
          | zero => simpa using hv
          | succ i =>
            have := h2 i (by omega)
            rw [List.getElem?_cons_succ, ← this]
            congr 1
            omega
        · simp at h
    · rintro ⟨h1, h2⟩
      cases vs with
      | nil => simp at h1
      | cons v vs =>
        have h0 := h2 0 (by omega)
        simp only [Nat.add_zero, List.getElem?_cons_zero] at h0
        have hr : Table.readRun n (a + 1) m = .ok vs := by
          refine ih.2 ⟨by simpa using h1, fun i hi => ?_⟩
          have := h2 (i + 1) (by omega)
          rw [List.getElem?_cons_succ] at this
          rw [← this]
          congr 1
          omega
        rw [h0]
        simp only
        rw [hr]

/-- A run that cannot be read stops at its first unlisted index. -/
theorem Table.readRun_eq_error {n a b : Nat} {m : Table α} (h : Table.readRun n a m = .error b) :
    a ≤ b ∧ b < a + n ∧ Table.read m b = none ∧ ∀ i, a ≤ i → i < b → (Table.read m i).isSome := by
  induction n generalizing a with
  | zero => simp [Table.readRun] at h
  | succ n ih =>
    rw [Table.readRun_succ] at h
    split at h
    · rename_i hr
      injection h with h
      subst h
      exact ⟨by omega, by omega, hr, fun i h1 h2 => by omega⟩
    · rename_i v hv
      split at h
      · simp at h
      · rename_i e he
        injection h with h
        subst h
        obtain ⟨h1, h2, h3, h4⟩ := ih he
        refine ⟨by omega, by omega, h3, fun i hi1 hi2 => ?_⟩
        by_cases e : i = a
        · subst e
          simp [hv]
        · exact h4 i (by omega) hi2

/-- A run just written is read back, whole or in part. -/
theorem Table.readRun_writeRun {m : Table α} (hm : m.Pairwise (fun c d => c.1 < d.1)) {a : Nat} {vs : List α} {i k : Nat}
    (h : i + k ≤ vs.length) :
    Table.readRun k (a + i) (Table.writeRun m a vs) = .ok ((vs.drop i).take k) := by
  rw [Table.readRun_eq_ok]
  refine ⟨by simp; omega, fun j hj => ?_⟩
  rw [Table.read_writeRun hm, if_pos (by omega), List.getElem?_take, if_pos hj, List.getElem?_drop]
  congr 1
  omega

theorem Table.readRunD_of_seek {m m' : Table α} {dflt : Nat → α} {n a : Nat} (h : Table.seek m a = Table.seek m' a) :
    Table.readRunD dflt n a m = Table.readRunD dflt n a m' := by
  cases n with
  | zero => rfl
  | succ n =>
    unfold Table.readRunD
    rw [h]

/-- A run with a default: each value is the one listed, or the default. -/
theorem Table.readRunD_succ (dflt : Nat → α) (n a : Nat) (m : Table α) :
    Table.readRunD dflt (n + 1) a m =
      (Table.read m a).getD (dflt a) :: Table.readRunD dflt n (a + 1) m := by
  rw [Table.readRunD]
  cases h : Table.seek m a with
  | nil =>
    rw [Table.read_of_seek_eq_nil h]
    simp only [Option.getD_none]
    congr 1
    refine Table.readRunD_of_seek ?_
    rw [← Table.seek_seek m (Nat.le_succ a), h]
  | cons c rest =>
    rw [Table.read_of_seek_eq h]
    by_cases hc : c.1 = a
    · simp only [hc, if_true, Option.getD_some,
        Table.readRunD_of_seek (Table.seek_succ_of_eq h hc (Nat.lt_add_one a)).symm]
    · simp only [hc, if_false, Option.getD_none]
      congr 1
      refine Table.readRunD_of_seek ?_
      rw [← h, Table.seek_seek m (Nat.le_succ a)]

@[simp] theorem Table.length_readRunD (dflt : Nat → α) (n a : Nat) (m : Table α) :
    (Table.readRunD dflt n a m).length = n := by
  induction n generalizing a with
  | zero => rfl
  | succ n ih => simp [Table.readRunD_succ, ih]

theorem Table.getElem?_readRunD (dflt : Nat → α) {n a i : Nat} (m : Table α) (h : i < n) :
    (Table.readRunD dflt n a m)[i]? = some ((Table.read m (a + i)).getD (dflt (a + i))) := by
  induction n generalizing a i with
  | zero => omega
  | succ n ih =>
    rw [Table.readRunD_succ]
    cases i with
    | zero => simp
    | succ i =>
      rw [List.getElem?_cons_succ, ih (by omega)]
      congr 3 <;> omega

/-! ### Spans of the buffers -/

/-- A span is read exactly when every byte of it has been written. -/
theorem readSpan_eq_ok {sp : Space} {s : State} {off n : Nat} {d : List Byte} :
    readSpan sp s off n = .ok d ↔ d.length = n ∧ ∀ i < n, Table.read (s.memory sp) (off + i) = d[i]? := by
  rw [← Table.readRun_eq_ok]
  unfold readSpan
  cases Table.readRun n off (s.memory sp) <;> simp

/-- A span that cannot be read names its first unwritten byte. -/
theorem readSpan_eq_error {sp : Space} {s : State} {off n : Nat} {f : Fault} (h : readSpan sp s off n = .error f) :
    ∃ a, f = .unwrittenRead sp a ∧ off ≤ a ∧ a < off + n ∧ Table.read (s.memory sp) a = none := by
  unfold readSpan at h
  split at h
  · simp at h
  · rename_i a ha
    injection h with h
    obtain ⟨h1, h2, h3, _⟩ := Table.readRun_eq_error ha
    exact ⟨a, h.symm, h1, h2, h3⟩

/-- A byte memory stays canonical under a command's write of a run inside it. -/
theorem Memory.wf_writeRun {cap : Nat} {m : Memory} (hm : Memory.wf cap m) {a : Nat} {bytes : List Byte}
    (h : a + bytes.length ≤ cap) : Memory.wf cap (Table.writeRun m a bytes) := Table.wf_writeRun hm h

/-- The host's write of one byte keeps both buffers canonical. -/
theorem State.memory_wf_writeByte {s : State} (hf : Memory.wf 65536 s.fm) (hr : Memory.wf 65536 s.rf) {sp : Space} {a : Nat}
    (ha : a < 65536) (b : Byte) :
    Memory.wf 65536 (s.writeByte sp a b).fm ∧ Memory.wf 65536 (s.writeByte sp a b).rf := by
  cases sp
  · exact ⟨Table.wf_write hf ha b, hr⟩
  · exact ⟨hf, Table.wf_write hr ha b⟩

/-- Reset's memories, with nothing listed, are canonical. -/
theorem State.memory_wf_resetWith (p : Params) (e : Env) (sp : Space) :
    Memory.wf 65536 ((State.resetWith p e).memory sp) := by
  cases sp <;> exact Table.wf_nil 65536

end Sys2Proof.Machine
end

