-- ==== Sys2Proof/Laws/Ring.lean ====
section
/-! SUPPORT. The arithmetic of ring indices (R170, R172, R173) and what the scan of R180 answers. -/

namespace Sys2Proof.Machine

/-! ### Advancing a pointer -/

theorem ringAdd_toNat {n : Nat} (h0 : 0 < n) (h1 : n ≤ 65536) (i : Word) (k : Nat) :
    (ringAdd n i k).toNat = (i.toNat + k) % n := by
  have := Nat.mod_lt (i.toNat + k) h0
  rw [ringAdd, BitVec.toNat_ofNat]
  exact Nat.mod_eq_of_lt (by omega)

theorem ringAdd_lt {n : Nat} (h0 : 0 < n) (h1 : n ≤ 65536) (i : Word) (k : Nat) : (ringAdd n i k).toNat < n := by
  rw [ringAdd_toNat h0 h1]
  exact Nat.mod_lt _ h0

/-- A pointer that does not advance stays where it is. -/
theorem ringAdd_zero {n : Nat} {i : Word} (hi : i.toNat < n) : ringAdd n i 0 = i := by
  rw [ringAdd, Nat.add_zero, Nat.mod_eq_of_lt hi, BitVec.ofNat_toNat, BitVec.setWidth_eq]

theorem ringAdd_ringAdd {n : Nat} (h0 : 0 < n) (h1 : n ≤ 65536) (i : Word) (j k : Nat) :
    ringAdd n (ringAdd n i j) k = ringAdd n i (j + k) := by
  apply BitVec.eq_of_toNat_eq
  simp only [ringAdd_toNat h0 h1, Nat.mod_add_mod, Nat.add_assoc]

/-- Fewer than NUM_SLOTS steps on, every slot is another one. -/
theorem ringAdd_inj {n : Nat} (h0 : 0 < n) (h1 : n ≤ 65536) {i : Word} {j k : Nat} (hj : j < n) (hk : k < n)
    (h : (ringAdd n i j).toNat = (ringAdd n i k).toNat) : j = k := by
  rw [ringAdd_toNat h0 h1, ringAdd_toNat h0 h1] at h
  have h2 : j % n = k % n := Nat.ModEq.add_left_cancel' i.toNat h
  rwa [Nat.mod_eq_of_lt hj, Nat.mod_eq_of_lt hk] at h2

/-! ### The gap between two pointers -/

theorem ringGap_lt {n : Nat} (h0 : 0 < n) (head tail : Word) : ringGap n head tail < n := Nat.mod_lt _ h0

theorem ringGap_self {n : Nat} {i : Word} (hi : i.toNat < n) : ringGap n i i = 0 := by
  rw [ringGap, Nat.mod_eq_of_lt hi, show i.toNat + (n - i.toNat) = n by omega, Nat.mod_self]

/-- The tail lies a gap past the head. -/
theorem ringAdd_ringGap {n : Nat} (h1 : n ≤ 65536) {head tail : Word} (hh : head.toNat < n) (ht : tail.toNat < n) :
    ringAdd n head (ringGap n head tail) = tail := by
  apply BitVec.eq_of_toNat_eq
  rw [ringAdd_toNat (by omega) h1, ringGap, Nat.mod_eq_of_lt hh, Nat.add_mod_mod]
  rw [show head.toNat + (tail.toNat + (n - head.toNat)) = tail.toNat + n by omega, Nat.add_mod_right,
    Nat.mod_eq_of_lt ht]

theorem ringGap_ringAdd {n : Nat} (h1 : n ≤ 65536) {head : Word} (hh : head.toNat < n) {k : Nat} (hk : k < n) :
    ringGap n head (ringAdd n head k) = k := by
  have h0 : 0 < n := by omega
  refine ringAdd_inj h0 h1 (i := head) (ringGap_lt h0 _ _) hk ?_
  rw [ringAdd_ringGap h1 hh (ringAdd_lt h0 h1 _ _)]

/-- Advancing the tail widens the gap, short of a full turn. -/
theorem ringGap_ringAdd_tail {n : Nat} (h1 : n ≤ 65536) {head tail : Word} (hh : head.toNat < n) (ht : tail.toNat < n) {k : Nat}
    (hk : ringGap n head tail + k < n) : ringGap n head (ringAdd n tail k) = ringGap n head tail + k := by
  have h0 : 0 < n := by omega
  conv_lhs => rw [← ringAdd_ringGap h1 hh ht]
  rw [ringAdd_ringAdd h0 h1, ringGap_ringAdd h1 hh hk]

/-- Advancing the head within the gap narrows it. -/
theorem ringGap_ringAdd_head {n : Nat} (h1 : n ≤ 65536) {head tail : Word} (hh : head.toNat < n) (ht : tail.toNat < n) {k : Nat}
    (hk : k ≤ ringGap n head tail) : ringGap n (ringAdd n head k) tail = ringGap n head tail - k := by
  have h0 : 0 < n := by omega
  have hg := ringGap_lt h0 head tail
  have e : ringAdd n (ringAdd n head k) (ringGap n head tail - k) = tail := by
    rw [ringAdd_ringAdd h0 h1, show k + (ringGap n head tail - k) = ringGap n head tail by omega, ringAdd_ringGap h1 hh ht]
  conv_lhs => rw [← e]
  exact ringGap_ringAdd h1 (ringAdd_lt h0 h1 _ _) (by omega)

/-! ### The counts of a queue -/

theorem TxQueue.free_add_inflight {n : Nat} (h0 : 0 < n) (t : TxQueue) : t.free n + t.inflight n = n - 1 := by
  have := ringGap_lt h0 t.head t.tail
  unfold TxQueue.inflight TxQueue.free
  omega

/-- A queue with a free slot that has filled it has one slot more in flight (R172, R181). -/
theorem TxQueue.inflight_of_filled {n : Nat} (h1 : n ≤ 65536) {t t' : TxQueue} (hh : t.head.toNat < n) (ht : t.tail.toNat < n)
    (hf : 0 < t.free n) (eh : t'.head = ringAdd n t.head 1) (et : t'.tail = t.tail) : t'.inflight n = t.inflight n + 1 := by
  have h0 : 0 < n := by omega
  have := t.free_add_inflight h0
  unfold TxQueue.inflight TxQueue.free at *
  rw [eh, et, ringGap_ringAdd_head h1 hh ht hf]
  omega

/-! ### The scan -/

section
variable {α : Type} {p : α → Bool}

/-- The scan finds nothing exactly when nothing satisfies the test. -/
theorem firstFrom_eq_none {q : Nat} {l : List α} : firstFrom p q l = none ↔ ∀ x ∈ l, p x = false := by
  induction l generalizing q with
  | nil => simp [firstFrom]
  | cons x l ih =>
    unfold firstFrom
    cases h : p x <;> simp [h, ih]

/-- What the scan finds is the first element that satisfies the test. -/
theorem firstFrom_eq_some {q i : Nat} {x : α} {l : List α} :
    firstFrom p q l = some (i, x) ↔
      q ≤ i ∧ l[i - q]? = some x ∧ p x = true ∧ ∀ j y, j < i - q → l[j]? = some y → p y = false := by
  induction l generalizing q with
  | nil => simp [firstFrom]
  | cons y l ih =>
    unfold firstFrom
    cases h : p y with
    | true =>
      simp only [if_true, Option.some.injEq, Prod.mk.injEq]
      constructor
      · rintro ⟨rfl, rfl⟩
        exact ⟨le_refl _, by simp, h, by omega⟩
      · rintro ⟨h1, h2, -, h4⟩
        rcases Nat.eq_or_lt_of_le h1 with e | e
        · subst e
          simp at h2
          exact ⟨rfl, h2⟩
        · exact absurd (h4 0 y (by omega) rfl) (by simp [h])
    | false =>
      simp only [Bool.false_eq_true, if_false, ih]
      constructor
      · rintro ⟨h1, h2, h3, h4⟩
        refine ⟨by omega, ?_, h3, fun j z hj hz => ?_⟩
        · rw [show i - q = i - (q + 1) + 1 by omega, List.getElem?_cons_succ]
          exact h2
        · cases j with
          | zero =>
            simp only [List.getElem?_cons_zero, Option.some.injEq] at hz
            exact hz ▸ h
          | succ j => exact h4 j z (by omega) (by simpa using hz)
      · rintro ⟨h1, h2, h3, h4⟩
        have hne : i ≠ q := by
          rintro rfl
          simp only [Nat.sub_self, List.getElem?_cons_zero, Option.some.injEq] at h2
          subst h2
          simp [h] at h3
        refine ⟨by omega, ?_, h3, fun j z hj hz => ?_⟩
        · rw [show i - q = i - (q + 1) + 1 by omega, List.getElem?_cons_succ] at h2
          exact h2
        · exact h4 (j + 1) z (by omega) (by simpa using hz)

end

/-- No queue has a free slot (R180). -/
theorem firstFree_eq_none {s : State} : firstFree s = none ↔ ∀ t ∈ s.txq, t.free s.cfg.numSlots = 0 := by
  simp [firstFree, firstFrom_eq_none]

/-- The queue SEND fills is the first with a free slot (R180). -/
theorem firstFree_eq_some {s : State} {q : Nat} {t : TxQueue} :
    firstFree s = some (q, t) ↔
      s.txq[q]? = some t ∧ 0 < t.free s.cfg.numSlots ∧
        ∀ (q' : Nat) (t' : TxQueue), q' < q → s.txq[q']? = some t' → t'.free s.cfg.numSlots = 0 := by
  simp [firstFree, firstFrom_eq_some]

/-- No queue has a pending slot (R180). -/
theorem firstPending_eq_none {s : State} : firstPending s = none ↔ ∀ r ∈ s.rxq, r.pending s.cfg.numSlots = 0 := by
  simp [firstPending, firstFrom_eq_none]

/-- The queue RECV drains is the first with a pending slot (R180). -/
theorem firstPending_eq_some {s : State} {q : Nat} {r : RxQueue} :
    firstPending s = some (q, r) ↔
      s.rxq[q]? = some r ∧ 0 < r.pending s.cfg.numSlots ∧
        ∀ (q' : Nat) (r' : RxQueue), q' < q → s.rxq[q']? = some r' → r'.pending s.cfg.numSlots = 0 := by
  simp [firstPending, firstFrom_eq_some]

end Sys2Proof.Machine
end

