-- ==== Sys2Proof/Laws/Substrate.lean ====
section
/-! SUPPORT. What a sync does (R177, R178): queue by queue, slot by slot, and what it keeps. -/

namespace Sys2Proof.Machine

/-! ### sync(TX) -/

section
variable (n q k : Nat) (t : TxQueue)

@[simp] theorem TxQueue.sync_head : (t.sync n q k).head = t.head := rfl
@[simp] theorem TxQueue.sync_cur : (t.sync n q k).cur = t.cur := rfl
@[simp] theorem TxQueue.sync_tail : (t.sync n q k).tail = ringAdd n t.tail (min k (t.inflight n)) := rfl
@[simp] theorem TxQueue.sync_hwcur : (t.sync n q k).hwcur = t.head := rfl
@[simp] theorem TxQueue.sync_slots : (t.sync n q k).slots = t.slots := rfl
@[simp] theorem TxQueue.sync_wire :
    (t.sync n q k).wire = t.wire ++ handOver n q t.slots (ringGap n t.hwcur t.head) t.hwcur := rfl

end

/-- A queue with nothing to hand over, of which no slot is completed, is untouched. -/
theorem TxQueue.sync_zero {n q : Nat} {t : TxQueue} (hw : t.hwcur = t.head) (hh : t.head.toNat < n) (ht : t.tail.toNat < n) :
    t.sync n q 0 = t := by
  cases t with
  | mk head cur tail hwcur slots wire =>
    simp only at hw hh ht
    subst hw
    simp only [TxQueue.sync, Nat.zero_min, ringAdd_zero ht, ringGap_self hh, handOver, List.append_nil]

/-- Free slots grow by the completed ones (R177). -/
theorem TxQueue.free_sync {n : Nat} (h0 : 0 < n) (h1 : n ≤ 65536) {t : TxQueue} (hh : t.head.toNat < n) (ht : t.tail.toNat < n)
    (q k : Nat) : (t.sync n q k).free n = t.free n + min k (t.inflight n) := by
  have := t.free_add_inflight h0
  exact ringGap_ringAdd_tail h1 hh ht (by unfold TxQueue.free at this; omega)

theorem TxQueue.inv_sync {p : Params} (hp : p.legal) {t : TxQueue} (h : t.cur = t.head ∧ t.head.toNat < p.numSlots ∧
    Table.wf p.numSlots t.slots ∧ ∀ c ∈ t.slots, Memory.wf p.slotBufSize c.2.buf) (q k : Nat) :
    (t.sync p.numSlots q k).inv p := by
  obtain ⟨-, -, hn, -⟩ := hp
  exact ⟨h.1, rfl, h.2.1, ringAdd_lt (by omega) hn.2 _ _, h.2.2.1, h.2.2.2⟩

@[simp] theorem length_syncTxFrom (n q : Nat) (c : TxChoice) (l : List TxQueue) : (syncTxFrom n q c l).length = l.length := by
  induction l generalizing q c with
  | nil => rfl
  | cons t l ih => simp [syncTxFrom, ih]

/-- Each queue is synced by itself, with its own choice. -/
theorem getElem?_syncTxFrom (n q : Nat) (choice : TxChoice) (l : List TxQueue) (i : Nat) :
    (syncTxFrom n q choice l)[i]? = l[i]?.map fun t => t.sync n (q + i) (choice[i]?.getD 0) := by
  induction l generalizing q choice i with
  | nil => simp [syncTxFrom]
  | cons t l ih =>
    cases i with
    | zero => cases choice <;> simp [syncTxFrom]
    | succ i =>
      simp only [syncTxFrom, List.getElem?_cons_succ, ih, List.getElem?_tail]
      congr 2
      funext t
      congr 1
      omega

/-- The slots from `i` on, one after the other, are handed over. -/
theorem handOver_succ (n q : Nat) (slots : Table Slot) (k : Nat) (i : Word) :
    handOver n q slots (k + 1) i =
      { bytes := (slotAt .tx q slots i.toNat).bytes .tx q i.toNat (slotAt .tx q slots i.toNat).len.toNat
        flags := (slotAt .tx q slots i.toNat).flags } :: handOver n q slots k (ringAdd n i 1) := rfl

/-! ### Slots -/

theorem slotAt_eq_of_read {d : Direction} {q i : Nat} {slots : Table Slot} {sl : Slot} (h : Table.read slots i = some sl) :
    slotAt d q slots i = sl := by
  rw [slotAt, h]

/-- Bytes that are listed are what is read of a slot. -/
theorem Slot.bytes_eq {d : Direction} {q i : Nat} {sl : Slot} {bytes : List Byte}
    (h : ∀ j < bytes.length, Table.read sl.buf j = bytes[j]?) : sl.bytes d q i bytes.length = bytes := by
  apply List.ext_getElem?
  intro j
  by_cases hj : j < bytes.length
  · rw [Slot.bytes, Table.getElem?_readRunD _ _ hj, Nat.zero_add, h j hj, List.getElem?_eq_getElem hj]
    rfl
  · rw [List.getElem?_eq_none (by simp [Slot.bytes]; omega), List.getElem?_eq_none (by omega)]

@[simp] theorem Slot.length_bytes (d : Direction) (q i : Nat) (sl : Slot) (n : Nat) : (sl.bytes d q i n).length = n :=
  Table.length_readRunD _ _ _ _

/-- The slot a table holds, or a slot nothing has written, has a canonical buffer. -/
theorem wf_slotAt {cap : Nat} {slots : Table Slot} (h : ∀ c ∈ slots, Memory.wf cap c.2.buf) (d : Direction) (q i : Nat) :
    Memory.wf cap (slotAt d q slots i).buf := by
  unfold slotAt
  split
  · rename_i sl hs
    exact h _ (Table.mem_of_read hs)
  · exact Table.wf_nil cap

theorem Slot.wf_fill {cap : Nat} {sl : Slot} (h : Memory.wf cap sl.buf) {bytes : List Byte} (hb : bytes.length ≤ cap)
    (len flags : Half) : Memory.wf cap (sl.fill bytes len flags).buf := Table.wf_writeRun h (by omega)

/-- A write of one slot keeps every buffer canonical. -/
theorem wf_bufs_write {cap : Nat} {slots : Table Slot} (h : ∀ c ∈ slots, Memory.wf cap c.2.buf) {sl : Slot}
    (hs : Memory.wf cap sl.buf) (i : Nat) : ∀ c ∈ Table.write slots i sl, Memory.wf cap c.2.buf := by
  intro c hc
  rcases Table.mem_write hc with rfl | hc
  · exact hs
  · exact h c hc

/-! ### sync(RX) -/

@[simp] theorem length_choiceBytes (size : Nat) (c : SlotChoice) : (choiceBytes size c).length = min c.len.toNat size := by
  simp [choiceBytes]
  omega

/-- Publishing keeps the slot table and every slot buffer canonical. -/
theorem wf_publish {n size : Nat} (h0 : 0 < n) (h1 : n ≤ 65536) (q : Nat) (cs : List SlotChoice) {i : Word} (hi : i.toNat < n)
    {slots : Table Slot} (hs : Table.wf n slots) (hb : ∀ c ∈ slots, Memory.wf size c.2.buf) :
    Table.wf n (publish n size q cs i slots) ∧ ∀ c ∈ publish n size q cs i slots, Memory.wf size c.2.buf := by
  induction cs generalizing i slots with
  | nil => exact ⟨hs, hb⟩
  | cons c cs ih =>
    refine ih (ringAdd_lt h0 h1 _ _) (Table.wf_write hs hi _) (wf_bufs_write hb ?_ _)
    exact Slot.wf_fill (wf_slotAt hb _ _ _) (by simp) _ _

/-- A slot outside the published ones keeps its value. -/
theorem read_publish_of_ne {n size : Nat} (h0 : 0 < n) (h1 : n ≤ 65536) (q : Nat) (cs : List SlotChoice) {i : Word}
    (hi : i.toNat < n) {slots : Table Slot} (hs : Table.wf n slots) {x : Nat}
    (hx : ∀ j < cs.length, (ringAdd n i j).toNat ≠ x) :
    Table.read (publish n size q cs i slots) x = Table.read slots x := by
  induction cs generalizing i slots with
  | nil => rfl
  | cons c cs ih =>
    have hne : x ≠ i.toNat := by
      have := hx 0 (by simp)
      rw [ringAdd_zero hi] at this
      exact fun h => this h.symm
    rw [publish, ih (ringAdd_lt h0 h1 _ _) (Table.wf_write hs hi _), Table.read_write hs.1, if_neg hne]
    intro j hj
    rw [ringAdd_ringAdd h0 h1]
    exact hx _ (by simp only [List.length_cons]; omega)

/-- The published slots hold their choices' length, flags and bytes, and keep their further bytes (R178). -/
theorem read_publish {n size : Nat} (h0 : 0 < n) (h1 : n ≤ 65536) (q : Nat) (cs : List SlotChoice) {i : Word} (hi : i.toNat < n)
    {slots : Table Slot} (hs : Table.wf n slots) (hb : ∀ c ∈ slots, Memory.wf size c.2.buf) (hc : cs.length ≤ n)
    {j : Nat} {c : SlotChoice} (hj : cs[j]? = some c) :
    ∃ sl, Table.read (publish n size q cs i slots) (ringAdd n i j).toNat = some sl ∧ sl.len = c.len ∧ sl.flags = c.flags ∧
      (∀ x < min c.len.toNat size, Table.read sl.buf x = (choiceBytes size c)[x]?) ∧
      ∀ sl', Table.read slots (ringAdd n i j).toNat = some sl' →
        ∀ x, min c.len.toNat size ≤ x → Table.read sl.buf x = Table.read sl'.buf x := by
  induction cs generalizing i slots j with
  | nil => simp at hj
  | cons d cs ih =>
    have hb' : ∀ c ∈ Table.write slots i.toNat ((slotAt .rx q slots i.toNat).fill (choiceBytes size d) d.len d.flags),
        Memory.wf size c.2.buf := wf_bufs_write hb (Slot.wf_fill (wf_slotAt hb _ _ _) (by simp) _ _) _
    have hs' := Table.wf_write hs hi ((slotAt .rx q slots i.toNat).fill (choiceBytes size d) d.len d.flags)
    simp only [List.length_cons] at hc
    cases j with
    | zero =>
      simp only [List.getElem?_cons_zero, Option.some.injEq] at hj
      subst hj
      refine ⟨(slotAt .rx q slots i.toNat).fill (choiceBytes size d) d.len d.flags, ?_, rfl, rfl, fun x hx => ?_, fun sl' hsl x hx => ?_⟩
      · rw [publish, read_publish_of_ne h0 h1 q cs (ringAdd_lt h0 h1 _ _) hs', ringAdd_zero hi, Table.read_write hs.1, if_pos rfl]
        intro k hk he
        rw [ringAdd_ringAdd h0 h1] at he
        have := ringAdd_inj h0 h1 (i := i) (by omega) (by omega) he
        omega
      · rw [Slot.fill, Table.read_writeRun (wf_slotAt hb _ _ _).1, if_pos (by simp; omega), Nat.sub_zero]
      · rw [ringAdd_zero hi] at hsl
        rw [Slot.fill, Table.read_writeRun (wf_slotAt hb _ _ _).1, if_neg (by simp; omega), slotAt_eq_of_read hsl]
    | succ j =>
      rw [publish]
      have := ih (ringAdd_lt h0 h1 i 1) hs' hb' (by omega) (by simpa using hj)
      rw [ringAdd_ringAdd h0 h1, Nat.add_comm 1 j, Table.read_write hs.1, if_neg fun he => ?_] at this
      · exact this
      · have hj' : j < cs.length := by simpa using (List.getElem?_eq_some_iff.1 hj).1
        have := ringAdd_inj h0 h1 (i := i) (j := j + 1) (k := 0) (by omega) (by omega) (by rw [ringAdd_zero hi]; exact he)
        omega

section
variable (n size q : Nat) (cs : List SlotChoice) (r : RxQueue)

@[simp] theorem RxQueue.sync_head : (r.sync n size q cs).head = r.head := rfl
@[simp] theorem RxQueue.sync_cur : (r.sync n size q cs).cur = r.cur := rfl
@[simp] theorem RxQueue.sync_tail : (r.sync n size q cs).tail = ringAdd n r.tail (cs.take (n - 1 - r.pending n)).length := rfl
@[simp] theorem RxQueue.sync_slots :
    (r.sync n size q cs).slots = publish n size q (cs.take (n - 1 - r.pending n)) r.tail r.slots := rfl

end

/-- A queue into which nothing is published is untouched. -/
theorem RxQueue.sync_nil {n size q : Nat} {r : RxQueue} (ht : r.tail.toNat < n) : r.sync n size q [] = r := by
  cases r
  simp only [RxQueue.sync, List.take_nil, List.length_nil, publish, ringAdd_zero ht]

/-- Pending slots grow by the published ones (R178). -/
theorem RxQueue.pending_sync {n : Nat} (h0 : 0 < n) (h1 : n ≤ 65536) {r : RxQueue} (hh : r.head.toNat < n) (ht : r.tail.toNat < n)
    (size q : Nat) (cs : List SlotChoice) :
    (r.sync n size q cs).pending n = r.pending n + min cs.length (n - 1 - r.pending n) := by
  have h2 : r.pending n < n := ringGap_lt h0 _ _
  have h3 : (cs.take (n - 1 - r.pending n)).length = min cs.length (n - 1 - r.pending n) := by
    rw [List.length_take, Nat.min_comm]
  rw [← h3]
  exact ringGap_ringAdd_tail h1 hh ht (by rw [h3]; unfold RxQueue.pending at h2 ⊢; omega)

theorem RxQueue.inv_sync {p : Params} (hp : p.legal) {r : RxQueue} (h : r.inv p) (q : Nat) (cs : List SlotChoice) :
    (r.sync p.numSlots p.slotBufSize q cs).inv p := by
  obtain ⟨-, -, hn, -⟩ := hp
  obtain ⟨h1, h2, h3, h4, h5⟩ := h
  exact ⟨h1, h2, ringAdd_lt (by omega) hn.2 _ _, wf_publish (by omega) hn.2 q _ h3 h4 h5⟩

/-- A slot that was pending is none of those published (R178). -/
theorem RxQueue.read_sync_of_pending {p : Params} (hp : p.legal) {r : RxQueue} (h : r.inv p) (q : Nat) (cs : List SlotChoice)
    {j : Nat} (hj : j < r.pending p.numSlots) :
    Table.read (r.sync p.numSlots p.slotBufSize q cs).slots (ringAdd p.numSlots r.head j).toNat =
      Table.read r.slots (ringAdd p.numSlots r.head j).toNat := by
  obtain ⟨-, -, hn, -⟩ := hp
  obtain ⟨-, h2, h3, h4, -⟩ := h
  have h0 : 0 < p.numSlots := by omega
  have hg : r.pending p.numSlots < p.numSlots := ringGap_lt h0 _ _
  refine read_publish_of_ne h0 hn.2 q _ h3 h4 fun k hk he => ?_
  rw [List.length_take] at hk
  conv at he => lhs; rw [← ringAdd_ringGap hn.2 h2 h3]
  change (ringAdd p.numSlots (ringAdd p.numSlots r.head (r.pending p.numSlots)) k).toNat = _ at he
  rw [ringAdd_ringAdd h0 hn.2] at he
  have := ringAdd_inj h0 hn.2 (by omega) (by omega) he
  omega

/-- A queue committed past `m` of its pending slots (R189). -/
theorem RxQueue.inv_committed {p : Params} (hp : p.legal) {r : RxQueue} (h : r.inv p) (m : Nat) :
    RxQueue.inv p { r with head := ringAdd p.numSlots r.head m, cur := ringAdd p.numSlots r.head m } := by
  obtain ⟨-, -, hn, -⟩ := hp
  exact ⟨rfl, ringAdd_lt (by omega) hn.2 _ _, h.2.2⟩

/-- A slot that is still pending after the commit of the `m` slots before it is none of those the sync publishes (R171, R178). -/
theorem RxQueue.read_sync_of_committed {p : Params} (hp : p.legal) {r : RxQueue} (h : r.inv p) (q : Nat) (cs : List SlotChoice)
    {m j : Nat} (hm : m ≤ j) (hj : j < r.pending p.numSlots) :
    Table.read
        (RxQueue.sync p.numSlots p.slotBufSize q cs
          { r with head := ringAdd p.numSlots r.head m, cur := ringAdd p.numSlots r.head m }).slots
        ((r.head.toNat + j) % p.numSlots) =
      Table.read r.slots ((r.head.toNat + j) % p.numSlots) := by
  have hn := hp.2.2.1
  have h0 : 0 < p.numSlots := by omega
  have hpend : RxQueue.pending p.numSlots { r with head := ringAdd p.numSlots r.head m, cur := ringAdd p.numSlots r.head m } =
      r.pending p.numSlots - m := ringGap_ringAdd_head hn.2 h.2.1 h.2.2.1 (by unfold RxQueue.pending at hj; omega)
  have key := RxQueue.read_sync_of_pending hp (RxQueue.inv_committed hp h m) q cs (j := j - m) (by omega)
  simp only [ringAdd_ringAdd h0 hn.2] at key
  rwa [Nat.add_sub_cancel' hm, ringAdd_toNat h0 hn.2] at key

/-- After a sync every pending slot that was written still is, and every newly pending one is (R178). -/
theorem RxQueue.slotWritten_sync {p : Params} (hp : p.legal) {r : RxQueue} (h : r.inv p)
    (hw : ∀ j < r.pending p.numSlots, r.slotWritten p (ringAdd p.numSlots r.head j).toNat) (q : Nat) (cs : List SlotChoice) {j : Nat}
    (hj : j < (r.sync p.numSlots p.slotBufSize q cs).pending p.numSlots) :
    (r.sync p.numSlots p.slotBufSize q cs).slotWritten p (ringAdd p.numSlots r.head j).toNat := by
  have hn := hp.2.2.1
  have h0 : 0 < p.numSlots := by omega
  obtain ⟨-, h2, h3, h4, h5⟩ := id h
  rw [RxQueue.pending_sync h0 hn.2 h2 h3] at hj
  by_cases hold : j < r.pending p.numSlots
  · obtain ⟨sl, hsl, hb⟩ := hw j hold
    exact ⟨sl, by rw [RxQueue.read_sync_of_pending hp h q cs hold, hsl], hb⟩
  · have hg : r.pending p.numSlots < p.numSlots := ringGap_lt h0 _ _
    have hk : j - r.pending p.numSlots < (cs.take (p.numSlots - 1 - r.pending p.numSlots)).length := by
      rw [List.length_take]
      omega
    obtain ⟨sl, hsl, hlen, -, hb, -⟩ := read_publish h0 hn.2 q (cs.take (p.numSlots - 1 - r.pending p.numSlots)) h3 h4 h5
      (size := p.slotBufSize) (by rw [List.length_take]; omega) (List.getElem?_eq_getElem hk)
    have he : ringAdd p.numSlots r.tail (j - r.pending p.numSlots) = ringAdd p.numSlots r.head j := by
      conv_lhs => rw [← ringAdd_ringGap hn.2 h2 h3]
      change ringAdd p.numSlots (ringAdd p.numSlots r.head (r.pending p.numSlots)) _ = _
      rw [ringAdd_ringAdd h0 hn.2]
      congr 1
      omega
    rw [he] at hsl
    refine ⟨sl, hsl, fun x hx => ?_⟩
    rw [hlen] at hx
    rw [hb x hx, List.getElem?_eq_getElem (by simpa using hx)]
    rfl

@[simp] theorem length_syncRxFrom (n size q : Nat) (c : RxChoice) (l : List RxQueue) :
    (syncRxFrom n size q c l).length = l.length := by
  induction l generalizing q c with
  | nil => rfl
  | cons r l ih => simp [syncRxFrom, ih]

/-- Each queue is synced by itself, with its own choice. -/
theorem getElem?_syncRxFrom (n size q : Nat) (choice : RxChoice) (l : List RxQueue) (i : Nat) :
    (syncRxFrom n size q choice l)[i]? =
      l[i]?.map fun r => r.sync n size (q + i) (choice[i]?.getD []) := by
  induction l generalizing q choice i with
  | nil => simp [syncRxFrom]
  | cons r l ih =>
    cases i with
    | zero => cases choice <;> simp [syncRxFrom]
    | succ i =>
      simp only [syncRxFrom, List.getElem?_cons_succ, ih, List.getElem?_tail]
      congr 2
      funext r
      congr 1
      omega

end Sys2Proof.Machine
end

