-- ==== Sys2Proof/Laws/Exec.lean ====
section
/-! SUPPORT. What each meaning can answer: one lemma per shared operation and one inversion lemma per command. -/

namespace Sys2Proof.Machine

/-! ### Reads that must succeed -/

section
variable {α : Type}

@[simp] theorem need_ok (v : α) (k : α → Result) : need (.ok v) k = k v := rfl

@[simp] theorem need_error (f : Fault) (k : α → Result) : need (.error f) k = .fault f := rfl

/-- A meaning goes on to a next state only past a read that succeeded. -/
theorem need_eq_next {r : Except Fault α} {k : α → Result} {t : State} :
    need r k = .next t ↔ ∃ v, r = .ok v ∧ k v = .next t := by
  cases r <;> simp [need]

end

/-- A span whose bytes stand written is read. -/
theorem readSpan_of_holds {sp : Space} {s : State} {off : Nat} {d : List Byte} (h : s.holds sp off d) :
    readSpan sp s off d.length = .ok d := readSpan_eq_ok.2 ⟨rfl, h⟩

/-- A span with an unwritten byte faults on one of its unwritten bytes. -/
theorem readSpan_of_unwritten {sp : Space} {s : State} {off n : Nat} (h : ∃ i < n, s.byteAt sp (off + i) = none) :
    ∃ i < n, s.byteAt sp (off + i) = none ∧ readSpan sp s off n = .error (.unwrittenRead sp (off + i)) := by
  obtain ⟨i, hi, hn⟩ := h
  cases hr : readSpan sp s off n with
  | ok d =>
    obtain ⟨h1, h2⟩ := readSpan_eq_ok.1 hr
    have := h2 i hi
    rw [List.getElem?_eq_getElem (by omega)] at this
    simp [State.byteAt] at hn
    simp [hn] at this
  | error f =>
    obtain ⟨a, rfl, h1, h2, h3⟩ := readSpan_eq_error hr
    refine ⟨a - off, by omega, ?_, ?_⟩ <;> rw [show off + (a - off) = a by omega]
    exact h3

/-- A span outside the space: BAD_OPERAND, or, where ARG0 or ARG1 was unwritten, the end without a report (R247, R248). -/
theorem outcome_badOperand (marked : Bool) (r0 r1 : Word) (s : State) :
    outcome marked (fun t => finish .badOperand { t with result0 := r0, result1 := r1 }) (recordReads marked s) =
      { s with
        result0 := if marked then r0 else s.result0
        result1 := if marked then r1 else s.result1
        engine := .idle, done := true
        code := if marked then .badOperand else s.code
        faulted := s.faulted || !marked } := by
  cases marked <;> apply State.ext <;> simp

/-- The ways CSUM can go on: a span outside the space, or the span folded into ACC (R112). -/
theorem execCsum_eq_next {sp : Space} {s t : State} (h : execCsum sp s = .next t) :
    (65536 < s.arg0.value.toNat + s.arg1.value.toNat ∧
      t = { s with
        result0 := if s.arg0.written && s.arg1.written then s.arg0.value else s.result0
        result1 := if s.arg0.written && s.arg1.written then s.arg1.value else s.result1
        engine := .idle, done := true
        code := if s.arg0.written && s.arg1.written then .badOperand else s.code
        faulted := s.faulted || !(s.arg0.written && s.arg1.written) }) ∨
    (s.arg0.value.toNat + s.arg1.value.toNat ≤ 65536 ∧
      ∃ d, readSpan sp s s.arg0.value.toNat s.arg1.value.toNat = .ok d ∧
        t = { s with
          acc := Reg.set (ck d s.acc.value)
          engine := .idle, done := true
          code := if s.arg0.written && s.arg1.written && s.acc.written then .ok else s.code
          faulted := s.faulted || !(s.arg0.written && s.arg1.written && s.acc.written) }) := by
  unfold execCsum at h
  split at h
  · rename_i hlt
    rw [outcome_badOperand] at h
    injection h with h
    exact .inl ⟨hlt, h.symm⟩
  · obtain ⟨d, hd, h⟩ := need_eq_next.1 h
    rw [outcome_finish] at h
    injection h with h
    exact .inr ⟨by omega, d, hd, h.symm⟩

/-- The one way WRAPSUM can go on (R113). -/
theorem execWrapsum_eq_next {s t : State} (h : execWrapsum s = .next t) :
    t = { s with
      result0 := (wrap s.acc.value).setWidth 32
      engine := .idle, done := true
      code := if s.acc.written then .ok else s.code
      faulted := s.faulted || !s.acc.written } := by
  rw [execWrapsum, outcome_finish] at h
  injection h with h
  exact h.symm

/-! ### BUILD -/

/-- An illegal length: halted with LAYOUT_OVERFLOW, or, where FRAME_LEN was unwritten, ended without a report (R142, R248). -/
theorem outcome_halt_forgetFrame (marked : Bool) (s : State) :
    outcome marked (fun t => halt .layoutOverflow (forgetFrame t)) (recordReads marked s) =
      { s with
        fm := if marked then [] else s.fm
        fmLen := if marked then Config.freeFmLen s.env.draws else s.fmLen
        engine := .idle, done := true
        fatal := marked || s.fatal
        code := if marked then .layoutOverflow else s.code
        faulted := s.faulted || !marked
        env := if marked then s.env.drawn else s.env } := by
  cases marked <;> apply State.ext <;> simp

/-- The ways BUILD can go on: an illegal length halts, a legal one lays out the frame (R140, R142). -/
theorem execBuild_eq_next {s t : State} (h : execBuild s = .next t) :
    ((s.spec.frameLen.value.toNat < 42 ∨ 65536 < s.spec.frameLen.value.toNat) ∧
      t = { s with
        fm := if s.spec.frameLen.written then [] else s.fm
        fmLen := if s.spec.frameLen.written then Config.freeFmLen s.env.draws else s.fmLen
        engine := .idle, done := true
        fatal := s.spec.frameLen.written || s.fatal
        code := if s.spec.frameLen.written then .layoutOverflow else s.code
        faulted := s.faulted || !s.spec.frameLen.written
        env := if s.spec.frameLen.written then s.env.drawn else s.env }) ∨
    (42 ≤ s.spec.frameLen.value.toNat ∧ s.spec.frameLen.value.toNat ≤ 65536 ∧
      t = { layOut s.spec.fields s.spec.frameLen.value.toNat s with
        engine := .idle, done := true
        code := if s.spec.marked then .ok else s.code
        faulted := s.faulted || !s.spec.marked }) := by
  unfold execBuild at h
  split at h
  · rename_i hl
    rw [outcome_halt_forgetFrame] at h
    injection h with h
    exact .inl ⟨hl, h.symm⟩
  · rw [outcome_finish] at h
    injection h with h
    exact .inr ⟨by omega, by omega, h.symm⟩

@[simp] theorem length_be16 (v : Half) : (be16 v).length = 2 := rfl

@[simp] theorem length_be32 (v : Word) : (be32 v).length = 4 := rfl

/-- The laid-out frame has exactly the requested length (R141). -/
theorem length_frameBytes (p : Params) (f : FrameFields) {l : Nat} (h : 42 ≤ l) : (frameBytes p f l).length = l := by
  simp [frameBytes, ethHeader, macBytes, ipHeader, addresses, udpHeader, payload]
  omega

/-! ### SEND -/

/-- The ways an attempt of SEND can go on: no free slot, an oversized frame, or the first free slot filled (R181). -/
theorem sendAttempt_eq_next {s u : State} (h : sendAttempt s = .next u) :
    (firstFree s = none ∧ u = { syncTx s with engine := .sendSleep }) ∨
    ∃ q t, firstFree s = some (q, t) ∧
      ((s.cfg.slotBufSize < s.fmLen.toNat ∧
          u = halt .txFrameTooLarge (setResults (BitVec.ofNat 32 q) t.head s.txRounds s)) ∨
        (s.fmLen.toNat ≤ s.cfg.slotBufSize ∧ ∃ d, readSpan .fm s 0 s.fmLen.toNat = .ok d ∧
          u = finish .ok (setResults (BitVec.ofNat 32 q) t.head s.txRounds (syncTx (fillSlot q t d s))))) := by
  unfold sendAttempt at h
  split at h
  · rename_i hf
    injection h with h
    exact .inl ⟨hf, h.symm⟩
  · rename_i q t hf
    refine .inr ⟨q, t, hf, ?_⟩
    split at h
    · rename_i hl
      injection h with h
      exact .inl ⟨hl, h.symm⟩
    · rename_i hl
      obtain ⟨d, hd, h⟩ := need_eq_next.1 h
      injection h with h
      exact .inr ⟨by omega, d, hd, h.symm⟩

/-! ### RECV -/

/-- The ways an attempt of RECV can go on: nothing pending, or the drain of the first pending queue (R185). -/
theorem recvAttempt_eq_next {s u : State} (h : recvAttempt s = .next u) :
    (firstPending s = none ∧ u = { syncRx s with engine := .recvSleep }) ∨
    ∃ q r, firstPending s = some (q, r) ∧ u = endDrain q r (drainQueue q r s).1 (drainQueue q r s).2 s := by
  unfold recvAttempt at h
  split at h
  · rename_i hf
    injection h with h
    exact .inl ⟨hf, h.symm⟩
  · rename_i q r hf
    injection h with h
    exact .inr ⟨q, r, hf, h.symm⟩

/-- The end of a drain leaves the recorded fault as it is. -/
@[simp] theorem endDrain_faulted (q : Nat) (r : RxQueue) (d : Drain) (how : DrainEnd) (s : State) :
    (endDrain q r d how s).faulted = s.faulted := by
  cases how <;> exact outcome_keeps _ _ (f := State.faulted) rfl rfl

/-- An attempt of RECV always goes on, and records no fault (R185). -/
theorem recvAttempt_goes_on (s : State) : ∃ u, recvAttempt s = .next u ∧ u.faulted = s.faulted := by
  unfold recvAttempt
  split
  · exact ⟨_, rfl, rfl⟩
  · exact ⟨_, rfl, endDrain_faulted _ _ _ _ _⟩

/-- What a drain has checked when it appends a slot: it fits a slot buffer and the frame (R187). -/
theorem drain_succ (cfg : Params) (q : Nat) (slots : Table Slot) (avail : Nat) (d : Drain) (sl : Slot)
    (h : slotAt .rx q slots d.rcur.toNat = sl) :
    drain cfg q slots (avail + 1) d =
      if cfg.slotBufSize < sl.len.toNat then (d, .slotTooLong)
      else if 65536 < d.rfLen.toNat + sl.len.toNat then (d, .frameTooLong)
      else if sl.flags.getLsbD 0 then drain cfg q slots avail (d.append cfg.numSlots q sl)
      else (d.append cfg.numSlots q sl, .whole) := by
  subst h
  rfl

/-- A property of what a drain has done holds at its end if every append within the checks of R187 keeps it. -/
theorem drain_induction {cfg : Params} {q : Nat} {slots : Table Slot} {P : Drain → Prop}
    (step : ∀ d, P d → (slotAt .rx q slots d.rcur.toNat).len.toNat ≤ cfg.slotBufSize →
      d.rfLen.toNat + (slotAt .rx q slots d.rcur.toNat).len.toNat ≤ 65536 →
      P (d.append cfg.numSlots q (slotAt .rx q slots d.rcur.toNat)))
    (avail : Nat) (d : Drain) (h : P d) : P (drain cfg q slots avail d).1 := by
  induction avail generalizing d with
  | zero => exact h
  | succ avail ih =>
    rw [drain_succ cfg q slots avail d _ rfl]
    split
    · exact h
    · split
      · exact h
      · split
        · exact ih _ (step d h (by omega) (by omega))
        · exact step d h (by omega) (by omega)

/-! ### VERIFY -/

/-- One byte compared, then the rest (R220, R222). -/
theorem compareFrom_succ (n i : Nat) (fm rf : Memory) :
    compareFrom (n + 1) i fm rf =
      match Table.read fm i with
      | none => .error (.unwrittenRead .fm i)
      | some x =>
        match Table.read rf i with
        | none => .error (.unwrittenRead .rf i)
        | some y =>
          if x ≠ y then .ok (some { offset := i, expected := x, actual := y })
          else compareFrom n (i + 1) fm rf := by
  have of_seek : ∀ (n i : Nat) (a a' b b' : Memory), Table.seek a i = Table.seek a' i → Table.seek b i = Table.seek b' i →
      compareFrom n i a b = compareFrom n i a' b' := by
    intro n i a a' b b' ha hb
    cases n with
    | zero => rfl
    | succ n => simp only [compareFrom, ha, hb]
  rw [compareFrom]
  cases hf : Table.seek fm i with
  | nil => rw [Table.read_of_seek_eq_nil hf]
  | cons e fm' =>
    rw [Table.read_of_seek_eq hf]
    by_cases he : e.1 = i
    · simp only [he, ne_eq, not_true, if_false, if_true]
      cases hr : Table.seek rf i with
      | nil => rw [Table.read_of_seek_eq_nil hr]
      | cons a rf' =>
        rw [Table.read_of_seek_eq hr]
        by_cases ha : a.1 = i
        · simp only [ha, not_true, if_false, if_true]
          rw [of_seek n (i + 1) fm' fm rf' rf (Table.seek_succ_of_eq hf he (by omega)).symm
            (Table.seek_succ_of_eq hr ha (by omega)).symm]
        · simp only [ha, not_false_eq_true, if_true, if_false]
    · simp only [he, ne_eq, not_false_eq_true, if_true, if_false]

/-- The ways VERIFY can go on (R220). -/
theorem execVerify_eq_next {s t : State} (h : execVerify s = .next t) :
    (s.fmLen ≠ s.rfLen ∧ t = finish .lengthMismatch { s with result0 := s.fmLen, result1 := s.rfLen }) ∨
    (s.fmLen = s.rfLen ∧ ∃ d, compareFrom s.fmLen.toNat 0 s.fm s.rf = .ok d ∧ t = reportComparison d s) := by
  unfold execVerify at h
  split at h
  · rename_i hl
    injection h with h
    exact .inl ⟨hl, h.symm⟩
  · rename_i hl
    obtain ⟨d, hd, h⟩ := need_eq_next.1 h
    injection h with h
    exact .inr ⟨by simpa using hl, d, hd, h.symm⟩

end Sys2Proof.Machine
end

