-- ==== Sys2Proof/Laws/Drain.lean ====
section
/-! SUPPORT. What RECV's drain does slot by slot (R186, R187): one append, and a run of fragments. -/

namespace Sys2Proof.Machine

/-- The slot at the cursor holds `bytes`: what one append leaves. -/
theorem Drain.append_spec {n q : Nat} {sl : Slot} {bytes : List Byte} (hl : sl.len.toNat = bytes.length)
    (hb : ∀ j < bytes.length, Table.read sl.buf j = bytes[j]?) {d : Drain} (hw : Memory.wf 65536 d.rf)
    (hfit : d.rfLen.toNat + bytes.length ≤ 65536) :
    (d.append n q sl).rfLen.toNat = d.rfLen.toNat + bytes.length ∧ Memory.wf 65536 (d.append n q sl).rf ∧
    ∀ a, Table.read (d.append n q sl).rf a =
      if d.rfLen.toNat ≤ a ∧ a < d.rfLen.toNat + bytes.length then bytes[a - d.rfLen.toNat]? else Table.read d.rf a := by
  have hs : sl.bytes .rx q d.rcur.toNat sl.len.toNat = bytes := by rw [hl]; exact Slot.bytes_eq hb
  refine ⟨?_, ?_, fun a => ?_⟩
  · simp only [Drain.append, BitVec.toNat_ofNat, hl]
    omega
  · simp only [Drain.append, hs]
    exact Memory.wf_writeRun hw hfit
  · simp only [Drain.append, hs]
    exact Table.read_writeRun hw.1 _ _ _

/-- A run of fragments at the cursor, each with MOREFRAG = 1, is appended in order, and the drain goes on after it. -/
theorem drain_fragments {cfg : Params} (hc : cfg.legal) (q : Nat) (slots : Table Slot) (k : Nat) (ds : List (List Byte))
    {d : Drain} (hw : Memory.wf 65536 d.rf) (hr : d.rcur.toNat < cfg.numSlots)
    (hds : ∀ i e, ds[i]? = some e →
      ∃ sl, Table.read slots (ringAdd cfg.numSlots d.rcur i).toNat = some sl ∧ sl.len.toNat = e.length ∧
        sl.flags.getLsbD 0 = true ∧ (∀ j < e.length, Table.read sl.buf j = e[j]?) ∧ e.length ≤ cfg.slotBufSize)
    (hfit : d.rfLen.toNat + ds.flatten.length ≤ 65536) :
    ∃ d', drain cfg q slots (ds.length + k) d = drain cfg q slots k d' ∧
      d'.rfLen.toNat = d.rfLen.toNat + ds.flatten.length ∧ d'.rcur = ringAdd cfg.numSlots d.rcur ds.length ∧
      d'.rn = d.rn + ds.length ∧ Memory.wf 65536 d'.rf ∧
      ∀ a, Table.read d'.rf a =
        if d.rfLen.toNat ≤ a ∧ a < d.rfLen.toNat + ds.flatten.length then ds.flatten[a - d.rfLen.toNat]?
        else Table.read d.rf a := by
  have hn := hc.2.2.1
  have h0 : 0 < cfg.numSlots := by omega
  induction ds generalizing d with
  | nil =>
    refine ⟨d, by simp, by simp, (ringAdd_zero hr).symm, rfl, hw, fun a => ?_⟩
    rw [if_neg (by simp)]
  | cons e ds ih =>
    obtain ⟨sl, h1, h2, h3, h4, h5⟩ := hds 0 e rfl
    rw [ringAdd_zero hr] at h1
    have hsl : slotAt .rx q slots d.rcur.toNat = sl := slotAt_eq_of_read h1
    simp only [List.flatten_cons, List.length_append] at hfit
    obtain ⟨a1, a2, a3⟩ := Drain.append_spec (n := cfg.numSlots) (q := q) h2 h4 hw (by omega)
    have hcur : (d.append cfg.numSlots q sl).rcur = ringAdd cfg.numSlots d.rcur 1 := rfl
    obtain ⟨d', b1, b2, b3, b4, b5, b6⟩ := ih (d := d.append cfg.numSlots q sl) a2 (hcur ▸ ringAdd_lt h0 hn.2 _ _)
      (fun i x hx => by
        rw [hcur, ringAdd_ringAdd h0 hn.2, Nat.add_comm]
        exact hds (i + 1) x hx)
      (by omega)
    refine ⟨d', ?_, ?_, ?_, ?_, b5, fun a => ?_⟩
    · rw [List.length_cons, Nat.add_right_comm, drain_succ cfg q slots _ d sl hsl, if_neg (by omega), if_neg (by omega), if_pos h3, b1]
    · rw [b2, a1]
      simp only [List.flatten_cons, List.length_append]
      omega
    · rw [b3, hcur, ringAdd_ringAdd h0 hn.2, List.length_cons, Nat.add_comm]
    · rw [b4, List.length_cons]
      show d.rn + 1 + ds.length = _
      omega
    · rw [b6, a1, a3]
      simp only [List.flatten_cons, List.length_append]
      by_cases c1 : d.rfLen.toNat + e.length ≤ a ∧ a < d.rfLen.toNat + e.length + ds.flatten.length
      · rw [if_pos c1, if_pos (by omega), List.getElem?_append_right (by omega)]
        congr 1
        omega
      · rw [if_neg c1]
        by_cases c2 : d.rfLen.toNat ≤ a ∧ a < d.rfLen.toNat + e.length
        · rw [if_pos c2, if_pos (by omega), List.getElem?_append_left (by omega)]
        · rw [if_neg c2, if_neg (by omega)]

/-- Whatever the slots hold, a drain keeps RF canonical, the length legal and the cursor a slot index, and changes no byte below
the length it starts from nor from the length it ends with on. -/
theorem drain_frame {cfg : Params} (hc : cfg.legal) (q : Nat) (slots : Table Slot) (avail : Nat) {d : Drain}
    (hw : Memory.wf 65536 d.rf) (hl : d.rfLen.toNat ≤ 65536) (hr : d.rcur.toNat < cfg.numSlots) :
    Memory.wf 65536 (drain cfg q slots avail d).1.rf ∧ (drain cfg q slots avail d).1.rfLen.toNat ≤ 65536 ∧
    (drain cfg q slots avail d).1.rcur.toNat < cfg.numSlots ∧ d.rfLen.toNat ≤ (drain cfg q slots avail d).1.rfLen.toNat ∧
    ∀ a, (a < d.rfLen.toNat ∨ (drain cfg q slots avail d).1.rfLen.toNat ≤ a) →
      Table.read (drain cfg q slots avail d).1.rf a = Table.read d.rf a := by
  have hn := hc.2.2.1
  refine drain_induction
    (P := fun x => Memory.wf 65536 x.rf ∧ x.rfLen.toNat ≤ 65536 ∧ x.rcur.toNat < cfg.numSlots ∧ d.rfLen.toNat ≤ x.rfLen.toNat ∧
      ∀ a, (a < d.rfLen.toNat ∨ x.rfLen.toNat ≤ a) → Table.read x.rf a = Table.read d.rf a)
    ?_ avail d ⟨hw, hl, hr, le_refl _, fun _ _ => rfl⟩
  rintro x ⟨x1, x2, x3, x4, x5⟩ hs hf
  have e : (x.append cfg.numSlots q (slotAt .rx q slots x.rcur.toNat)).rfLen.toNat =
      x.rfLen.toNat + (slotAt .rx q slots x.rcur.toNat).len.toNat := by
    simp only [Drain.append, BitVec.toNat_ofNat]
    omega
  refine ⟨Memory.wf_writeRun x1 (by simpa using hf), by omega, ringAdd_lt (by omega) hn.2 _ _, by omega, fun a ha => ?_⟩
  rw [e] at ha
  rw [Drain.append, Table.read_writeRun x1.1, if_neg (by simp only [Slot.length_bytes]; omega)]
  exact x5 a (by omega)

/-- The drain's cursor moves over at most the pending slots (R186). -/
theorem drain_rcur {cfg : Params} (hc : cfg.legal) (q : Nat) (slots : Table Slot) (avail : Nat) {d : Drain}
    (hr : d.rcur.toNat < cfg.numSlots) :
    ∃ m ≤ avail, (drain cfg q slots avail d).1.rcur = ringAdd cfg.numSlots d.rcur m := by
  have hn := hc.2.2.1
  induction avail generalizing d with
  | zero => exact ⟨0, le_refl _, (ringAdd_zero hr).symm⟩
  | succ avail ih =>
    rw [drain_succ _ _ _ _ _ _ rfl]
    split
    · exact ⟨0, Nat.zero_le _, (ringAdd_zero hr).symm⟩
    · split
      · exact ⟨0, Nat.zero_le _, (ringAdd_zero hr).symm⟩
      · split
        · obtain ⟨m, h1, h2⟩ := ih (d := d.append cfg.numSlots q (slotAt .rx q slots d.rcur.toNat))
            (ringAdd_lt (by omega) hn.2 _ _)
          refine ⟨1 + m, by omega, h2.trans ?_⟩
          exact ringAdd_ringAdd (by omega) hn.2 _ _ _
        · exact ⟨1, by omega, rfl⟩

/-! ### How RECV ends -/

section
variable (q : Nat) (r : RxQueue) (d : Drain) (s : State)

/-- A whole frame: committed, synced, finished (R189, R191). -/
theorem endDrain_whole :
    endDrain q r d .whole s =
      { s with
        rf := d.rf, rfLen := d.rfLen, rcur := d.rcur, rn := d.rn
        rxq := syncRxFrom s.cfg.numSlots s.cfg.slotBufSize 0 s.env.takeRx.1
          (s.rxq.set q { r with head := d.rcur, cur := d.rcur })
        result0 := BitVec.ofNat 32 q, result1 := r.head, result2 := BitVec.ofNat 32 d.rn
        engine := .idle, done := true, code := if s.arg0.written then .ok else s.code, env := s.env.takeRx.2 } := by
  rw [endDrain, outcome_finish]
  apply State.ext <;> simp

/-- A check of the drain that fails: halted with `c` and the results, or, where ARG0 was unwritten, ended without a report (R248). -/
theorem outcome_halt_drain (c : StatusCode) (r2 : Word) :
    outcome s.arg0.written (fun t => halt c (setResults (BitVec.ofNat 32 q) d.rcur r2 t)) (keepDrain d s) =
      { s with
        rf := d.rf, rfLen := d.rfLen, rcur := d.rcur, rn := d.rn
        result0 := if s.arg0.written then BitVec.ofNat 32 q else s.result0
        result1 := if s.arg0.written then d.rcur else s.result1
        result2 := if s.arg0.written then r2 else s.result2
        engine := .idle, done := true
        fatal := s.arg0.written || s.fatal
        code := if s.arg0.written then c else s.code } := by
  cases s.arg0.written <;> apply State.ext <;> simp

/-- A frame cut short: halted, no queue committed, no sync (R188); reported unless ARG0 was unwritten (R248). -/
theorem endDrain_cut :
    endDrain q r d .cut s =
      { s with
        rf := d.rf, rfLen := d.rfLen, rcur := d.rcur, rn := d.rn
        result0 := if s.arg0.written then BitVec.ofNat 32 q else s.result0
        result1 := if s.arg0.written then d.rcur else s.result1
        result2 := if s.arg0.written then (BitVec.ofNat 32 d.rn) else s.result2
        engine := .idle, done := true
        fatal := s.arg0.written || s.fatal
        code := if s.arg0.written then .rxPartialFrame else s.code } := outcome_halt_drain q d s .rxPartialFrame (BitVec.ofNat 32 d.rn)

/-- A slot longer than its buffer: halted, no queue committed, no sync (R187, check 1); reported unless ARG0 was unwritten (R248). -/
theorem endDrain_slotTooLong :
    endDrain q r d .slotTooLong s =
      { s with
        rf := d.rf, rfLen := d.rfLen, rcur := d.rcur, rn := d.rn
        result0 := if s.arg0.written then BitVec.ofNat 32 q else s.result0
        result1 := if s.arg0.written then d.rcur else s.result1
        result2 := if s.arg0.written then 1 else s.result2
        engine := .idle, done := true
        fatal := s.arg0.written || s.fatal
        code := if s.arg0.written then .oversizedFrame else s.code } := outcome_halt_drain q d s .oversizedFrame 1

/-- A frame beyond 65536 bytes: halted, no queue committed, no sync (R187, check 2); reported unless ARG0 was unwritten (R248). -/
theorem endDrain_frameTooLong :
    endDrain q r d .frameTooLong s =
      { s with
        rf := d.rf, rfLen := d.rfLen, rcur := d.rcur, rn := d.rn
        result0 := if s.arg0.written then BitVec.ofNat 32 q else s.result0
        result1 := if s.arg0.written then d.rcur else s.result1
        result2 := if s.arg0.written then 0 else s.result2
        engine := .idle, done := true
        fatal := s.arg0.written || s.fatal
        code := if s.arg0.written then .oversizedFrame else s.code } := outcome_halt_drain q d s .oversizedFrame 0

end

/-- However a drain ends, the command has ended. -/
theorem endDrain_finished (q : Nat) (r : RxQueue) (d : Drain) (how : DrainEnd) (s : State) :
    (endDrain q r d how s).engine = .idle ∧ (endDrain q r d how s).done = true := by
  cases how <;> cases h : s.arg0.written <;> simp [endDrain, h]

/-- RECV's end after too long a wait: TIMEOUT with the count of polls, reported unless ARG0 was unwritten (R190, R248). -/
theorem timeOut_eq (s : State) :
    timeOut s =
      { s with
        result0 := if s.arg0.written then pollResult s else s.result0
        engine := .idle, done := true
        code := if s.arg0.written then .timeout else s.code
        env := if s.arg0.written then s.env.drawn else s.env } := by
  rw [timeOut]
  cases s.arg0.written <;> rfl

end Sys2Proof.Machine
end

