-- ==== Sys2Proof/Laws/PerInstr.lean ====
section
/-! SUPPORT. What holds of every command as syntax, one lemma per constructor (R92, R93, R94). -/

/-- The command is well formed, its word has no reserved bit set, and OPC is one of the six of R92; SP is set only for CSUM. -/
def Sys2Proof.Laws.WordFields.Statement (i : Sys2Proof.Instr) : Prop :=
  i.wellFormed = true ∧ Sys2Proof.reservedField (Sys2Proof.encode i) = 0 ∧
  1 ≤ Sys2Proof.opcField (Sys2Proof.encode i) ∧ Sys2Proof.opcField (Sys2Proof.encode i) ≤ 6 ∧
  (Sys2Proof.spField (Sys2Proof.encode i) = 0 ∨ i = .csum .rf)

theorem Sys2Proof.Laws.WordFields.csum (sp : Sys2Proof.Space) : Sys2Proof.Laws.WordFields.Statement (.csum sp) := by
  cases sp <;> simp [Statement, Instr.wellFormed, encode, reservedField, opcField, spField]

theorem Sys2Proof.Laws.WordFields.wrapsum : Sys2Proof.Laws.WordFields.Statement .wrapsum := by
  simp [Statement, Instr.wellFormed, encode, reservedField, opcField, spField]

theorem Sys2Proof.Laws.WordFields.build : Sys2Proof.Laws.WordFields.Statement .build := by
  simp [Statement, Instr.wellFormed, encode, reservedField, opcField, spField]

theorem Sys2Proof.Laws.WordFields.send : Sys2Proof.Laws.WordFields.Statement .send := by
  simp [Statement, Instr.wellFormed, encode, reservedField, opcField, spField]

theorem Sys2Proof.Laws.WordFields.recv : Sys2Proof.Laws.WordFields.Statement .recv := by
  simp [Statement, Instr.wellFormed, encode, reservedField, opcField, spField]

theorem Sys2Proof.Laws.WordFields.verify : Sys2Proof.Laws.WordFields.Statement .verify := by
  simp [Statement, Instr.wellFormed, encode, reservedField, opcField, spField]
end

