-- ==== Sys2Proof/Laws/Step.lean ====
section
/-! SUPPORT. What one step can do: the engine's, or one action of the host; and what a host write can do. -/

namespace Sys2Proof.Machine

/-! ### Runs -/

theorem run_succ_of_next {M : Host.Core} {s t : M.State} (h : M.step s = .next t) (n : Nat) : M.run (n + 1) s = M.run n t := by
  rw [Host.Core.run, h]

/-- A run whose first step goes on to `t` is a run from `t`. -/
theorem core_run_succ {s t : State} (h : step s = .next t) (n : Nat) :
    Sys2Proof.core.run (n + 1) s = Sys2Proof.core.run n t :=
  run_succ_of_next (M := Sys2Proof.core) h n

/-! ### The engine's step -/

/-- With nothing for the host to do the engine moves. -/
theorem step_of_empty_stream {s : State} (h : s.env.host = []) : step s = engineStep s := by
  rw [step, machineStep, h]

/-- A busy engine moves while the host waits or has nothing to do. -/
theorem step_of_hostWaits {s : State} (h : s.hostWaits) (hb : s.engine ≠ .idle) : step s = engineStep s := by
  unfold step machineStep
  cases hh : s.env.host with
  | nil => rfl
  | cons op rest =>
    obtain rfl : op = .wait := by simpa [State.hostWaits, hh] using h
    simp [hostStep, State.busy, hb]

theorem engineStep_of_start {s : State} (h : s.engine = .start) {i : Instr} (hd : decode s.cmd = .ok i) :
    engineStep s = exec i s := by
  rw [engineStep, h]
  simp only [runCommand, hd]

theorem engineStep_of_sendLoop {s : State} (h : s.engine = .sendLoop) : engineStep s = sendAttempt s := by rw [engineStep, h]

theorem engineStep_of_sendSleep {s : State} (h : s.engine = .sendSleep) : engineStep s = .next (endBackoff s) := by
  rw [engineStep, h]

theorem engineStep_of_recvLoop {s : State} (h : s.engine = .recvLoop) : engineStep s = recvAttempt s := by rw [engineStep, h]

theorem engineStep_of_recvSleep {s : State} (h : s.engine = .recvSleep) : engineStep s = .next (endPoll s) := by
  rw [engineStep, h]

/-! ### The passes of SEND and RECV -/

/-- SEND's first pass is an attempt with no round behind it, a later one an attempt with the rounds counted so far: what an attempt
leaves after any number of rounds, both leave. -/
theorem State.sendLeaves_of_sendAttempt {s : State} {P : Word → State → Prop}
    (h : ∀ n, ∃ u, sendAttempt { s with txRounds := n } = .next u ∧ P n u) : s.sendLeaves P := by
  refine ⟨h 0, fun he hw => ?_⟩
  rw [step_of_hostWaits hw (by simp [he]), engineStep_of_sendLoop he]
  exact h s.txRounds

/-- A pass of SEND is an attempt with the rounds before it. -/
theorem State.sendAttempt_of_sendPass {s u : State} {n : Word} (h : s.sendPass n u) :
    sendAttempt { s with txRounds := n } = .next u := by
  rcases h with ⟨h, rfl⟩ | ⟨he, hw, h, rfl⟩
  · exact h
  · rwa [step_of_hostWaits hw (by simp [he]), engineStep_of_sendLoop he] at h

@[simp] theorem State.recvFirst_elapsed (s : State) : s.recvFirst.elapsed = 0 := rfl
@[simp] theorem State.recvFirst_polls (s : State) : s.recvFirst.polls = 0 := rfl
@[simp] theorem State.recvFirst_faulted (s : State) : s.recvFirst.faulted = (s.faulted || !s.arg0.written) := rfl
@[simp] theorem State.recvLater_elapsed (s : State) : s.recvLater.elapsed = s.rxElapsed := rfl
@[simp] theorem State.recvLater_polls (s : State) : s.recvLater.polls = s.rxPolls := rfl
@[simp] theorem State.recvLater_faulted (s : State) : s.recvLater.faulted = s.faulted := rfl

/-- The state in which a pass of RECV started from `b` makes its attempt, RF_LEN being `l`. -/
@[simps]
def State.recvFrom (s : State) (b : RecvStart) (l : Word) : State :=
  { s with rfLen := l, rxElapsed := b.elapsed, rxPolls := b.polls, faulted := b.faulted }

/-- RECV is its first pass's attempt over a fresh frame (R185). -/
theorem execRecv_eq (s : State) : execRecv s = recvAttempt (s.recvFrom s.recvFirst 0) := rfl

/-- What an attempt of RECV over an empty frame leaves after any wait, both passes leave. -/
theorem State.recvLeaves_of_recvAttempt {s : State} {P : RecvStart → State → Prop}
    (h : ∀ b, ∃ u, recvAttempt (s.recvFrom b 0) = .next u ∧ P b u) : s.recvLeaves P := by
  refine ⟨h s.recvFirst, fun he hw hl => ?_⟩
  rw [step_of_hostWaits hw (by simp [he]), engineStep_of_recvLoop he]
  have := h s.recvLater
  rwa [show s.recvFrom s.recvLater 0 = s by rw [← hl]; rfl] at this

/-- A pass of RECV is an attempt from where it starts, over the frame as it stands or a fresh one. -/
theorem State.recvAttempt_of_recvPass {s u : State} {b : RecvStart} (h : s.recvPass b u) :
    ∃ l, recvAttempt (s.recvFrom b l) = .next u := by
  rcases h with ⟨h, rfl⟩ | ⟨he, hw, h, rfl⟩
  · exact ⟨0, h⟩
  · rw [step_of_hostWaits hw (by simp [he]), engineStep_of_recvLoop he] at h
    exact ⟨s.rfLen, h⟩

/-! ### How the engine can move -/

/-- The ways the engine can move. -/
theorem engineStep_eq_next {s t : State} (h : engineStep s = .next t) :
    (s.engine = .idle ∧ t = s) ∨
    (s.engine = .start ∧ ((∃ i, decode s.cmd = .ok i ∧ exec i s = .next t) ∨
      ((∃ e, decode s.cmd = .error e) ∧ t = finish .illegalCommand s))) ∨
    (s.engine = .sendLoop ∧ sendAttempt s = .next t) ∨
    (s.engine = .sendSleep ∧ t = endBackoff s) ∨
    (s.engine = .recvLoop ∧ recvAttempt s = .next t) ∨
    (s.engine = .recvSleep ∧ t = endPoll s) := by
  unfold engineStep at h
  split at h
  · rename_i he
    injection h with h
    exact .inl ⟨he, h.symm⟩
  · rename_i he
    refine .inr (.inl ⟨he, ?_⟩)
    unfold runCommand at h
    split at h
    · rename_i i hd
      exact .inl ⟨i, hd, h⟩
    · rename_i e hd
      injection h with h
      exact .inr ⟨⟨e, hd⟩, h.symm⟩
  · rename_i he
    exact .inr (.inr (.inl ⟨he, h⟩))
  · rename_i he
    injection h with h
    exact .inr (.inr (.inr (.inl ⟨he, h.symm⟩)))
  · rename_i he
    exact .inr (.inr (.inr (.inr (.inl ⟨he, h⟩))))
  · rename_i he
    injection h with h
    exact .inr (.inr (.inr (.inr (.inr ⟨he, h.symm⟩))))

/-! ### The host's write -/

theorem State.accepting_eq_true {s : State} : s.accepting = true ↔ s.engine = .idle ∧ s.fatal = false := by
  unfold State.accepting State.busy
  cases s.fatal <;> by_cases h : s.engine = .idle <;> simp [h]

theorem guardWrite_of_accepting {s : State} (h : s.accepting = true) (t : State) : guardWrite s t = t := by
  rw [guardWrite, if_pos h]

theorem guardWrite_of_not_accepting {s : State} (h : s.accepting = false) (t : State) : guardWrite s t = setOverrun s := by
  rw [guardWrite, if_neg (by simp [h])]

/-- The ways a write to a register can end: ignored, ignored with OVERRUN, a command issued, or one operand stored. -/
theorem writeReg_cases (n : RegName) (v : Word) (s : State) :
    writeReg n v s = s ∨
    (s.accepting = false ∧ writeReg n v s = setOverrun s) ∨
    (s.accepting = true ∧ n = .cmd ∧ writeReg n v s = issue v s) ∨
    (s.accepting = true ∧ ∃ a0 a1 sum p fl rl,
      writeReg n v s = { s with arg0 := a0, arg1 := a1, acc := sum, spec := p, fmLen := fl, rfLen := rl } ∧
      (fl = s.fmLen ∨ fl.toNat ≤ 65536) ∧ (rl = s.rfLen ∨ rl.toNat ≤ 65536)) := by
  cases ha : s.accepting with
  | false =>
    cases n <;> first
      | exact .inl rfl
      | exact .inr (.inl ⟨rfl, guardWrite_of_not_accepting ha _⟩)
  | true =>
    have hg : ∀ t, guardWrite s t = t := guardWrite_of_accepting ha
    have hlen : ∀ old : Word, legalLen v old = old ∨ (legalLen v old).toNat ≤ 65536 := by
      intro old
      unfold legalLen
      split
      · exact .inr ‹_›
      · exact .inl rfl
    cases n with
    | cmd => exact .inr (.inr (.inl ⟨rfl, rfl, hg _⟩))
    | arg0 => exact .inr (.inr (.inr ⟨rfl, _, _, _, _, _, _, hg _, .inl rfl, .inl rfl⟩))
    | arg1 => exact .inr (.inr (.inr ⟨rfl, _, _, _, _, _, _, hg _, .inl rfl, .inl rfl⟩))
    | acc => exact .inr (.inr (.inr ⟨rfl, _, _, _, _, _, _, hg _, .inl rfl, .inl rfl⟩))
    | dstMacHi => exact .inr (.inr (.inr ⟨rfl, _, _, _, _, _, _, hg _, .inl rfl, .inl rfl⟩))
    | dstMacLo => exact .inr (.inr (.inr ⟨rfl, _, _, _, _, _, _, hg _, .inl rfl, .inl rfl⟩))
    | srcMacHi => exact .inr (.inr (.inr ⟨rfl, _, _, _, _, _, _, hg _, .inl rfl, .inl rfl⟩))
    | srcMacLo => exact .inr (.inr (.inr ⟨rfl, _, _, _, _, _, _, hg _, .inl rfl, .inl rfl⟩))
    | srcIp => exact .inr (.inr (.inr ⟨rfl, _, _, _, _, _, _, hg _, .inl rfl, .inl rfl⟩))
    | dstIp => exact .inr (.inr (.inr ⟨rfl, _, _, _, _, _, _, hg _, .inl rfl, .inl rfl⟩))
    | srcPort => exact .inr (.inr (.inr ⟨rfl, _, _, _, _, _, _, hg _, .inl rfl, .inl rfl⟩))
    | dstPort => exact .inr (.inr (.inr ⟨rfl, _, _, _, _, _, _, hg _, .inl rfl, .inl rfl⟩))
    | filler => exact .inr (.inr (.inr ⟨rfl, _, _, _, _, _, _, hg _, .inl rfl, .inl rfl⟩))
    | frameLen => exact .inr (.inr (.inr ⟨rfl, _, _, _, _, _, _, hg _, .inl rfl, .inl rfl⟩))
    | fmLen => exact .inr (.inr (.inr ⟨rfl, _, _, _, _, _, _, hg _, hlen _, .inl rfl⟩))
    | rfLen => exact .inr (.inr (.inr ⟨rfl, _, _, _, _, _, _, hg _, .inl rfl, hlen _⟩))
    | _ => exact .inl rfl

/-- A command issue leaves the block accepted or finished; every operand, buffer and queue keeps its value. -/
theorem issue_cases (w : Word) (s : State) :
    (∃ i, decode w = .ok i ∧ issue w s = accept w s) ∨
    (∃ e, decode w = .error e ∧ issue w s = finish .illegalCommand (accept w s)) := by
  unfold issue
  cases h : decode w with
  | ok i => exact .inl ⟨i, rfl, rfl⟩
  | error e => exact .inr ⟨e, rfl, rfl⟩

/-- A target that is a buffer byte lies inside the buffer. -/
theorem target_byte_lt {width : Nat} {addr : HostAddr} {sp : Space} {a : Nat} (h : target width addr = some (.byte sp a)) :
    a < 65536 := by
  unfold target at h
  repeat' split at h
  all_goals simp at h
  all_goals omega

/-! ### The machine's step -/

/-- The ways one step can go on: the engine moved (after a `pass`, with the rest of the stream), or the host performed its next
operation. -/
theorem step_eq_next {s t : State} (h : step s = .next t) :
    (∃ s', (s' = s ∨ ∃ rest, s.env.host = .pass :: rest ∧ s' = s.withStream rest) ∧
      s.env.host.head? ≠ some .reset ∧ engineStep s' = .next t) ∨
    (∃ op rest, s.env.host = op :: rest ∧
      ((∃ width addr, op = .read width addr ∧ ∃ v,
          t = { s with env := { (s.performed op rest).env.drawn with readData := v } }) ∨
        (∃ width addr v tgt, op = .write width addr v ∧ target width addr = some tgt ∧
          t = writeTarget tgt v (s.performed op rest)) ∨
        (op = .wait ∧ s.engine = .idle ∧ t = s.performed op rest) ∨
        (op = .reset ∧ t = resetBlock (s.performed op rest)))) := by
  unfold step machineStep at h
  split at h
  · rename_i hh
    exact .inl ⟨s, .inl rfl, by simp [hh], h⟩
  · rename_i op rest hh
    cases op with
    | read width addr =>
      refine .inr ⟨_, rest, hh, .inl ⟨width, addr, rfl, ?_⟩⟩
      simp only [hostStep, hostRead] at h
      split at h
      · simp at h
      · injection h with h
        exact ⟨_, h.symm⟩
    | write width addr v =>
      refine .inr ⟨_, rest, hh, .inr (.inl ?_)⟩
      simp only [hostStep, hostWrite] at h
      split at h
      · simp at h
      · rename_i tgt ht
        injection h with h
        exact ⟨width, addr, v, tgt, rfl, ht, h.symm⟩
    | wait =>
      simp only [hostStep] at h
      split at h
      · exact .inl ⟨s, .inl rfl, by simp [hh], h⟩
      · rename_i hb
        injection h with h
        exact .inr ⟨_, rest, hh, .inr (.inr (.inl ⟨rfl, by simpa [State.busy] using hb, h.symm⟩))⟩
    | pass =>
      simp only [hostStep] at h
      exact .inl ⟨s.withStream rest, .inr ⟨rest, hh, rfl⟩, by simp [hh], h⟩
    | reset =>
      simp only [hostStep] at h
      injection h with h
      exact .inr ⟨_, rest, hh, .inr (.inr (.inr ⟨rfl, h.symm⟩))⟩

end Sys2Proof.Machine
end

