-- ==== Sys2Proof/Tests/Slice0.lean ====
section
/-! SUPPORT. The model's own tests: well-formedness, decoding, one step per command on small states (expected values from
95_test_vectors.md and the rules' own examples), and for every obligation with hypotheses a state that meets them. -/

namespace Sys2Proof.Tests

open Sys2Proof Sys2Proof.Machine

/-! ### States -/

/-- The reset state with the host operations `ops` to come. -/
def hostTo (ops : List HostOp) : State := { State.reset with env := { Env.empty with host := ops } }

/-- A byte sequence laid into a memory from address 0 on. -/
def mem (bytes : List Byte) : Memory := Table.number 0 bytes

/-- ARG0, ARG1 and ACC written. -/
def withArgs (a0 a1 sum : Word) (s : State) : State := { s with arg0 := Reg.set a0, arg1 := Reg.set a1, acc := Reg.set sum }

/-- The PacketSpec of D39 with the frame length `l` (95_test_vectors.md, section 0). -/
def exampleSpec (l : Word) : PacketSpec where
  dstMacHi := Reg.set 0xFFFF
  dstMacLo := Reg.set 0xFFFFFFFF
  srcMacHi := Reg.set 0
  srcMacLo := Reg.set 0
  srcIp := Reg.set 0x0A000005
  dstIp := Reg.set 0x0A000007
  srcPort := Reg.set 1234
  dstPort := Reg.set 4321
  filler := Reg.set 0x61
  frameLen := Reg.set l

/-- The reset state with the example PacketSpec. -/
def specTo (l : Word) : State := { State.reset with spec := exampleSpec l }

/-- A slot with the bytes `d` and the given MOREFRAG bit. -/
def slotOf (d : List Byte) (more : Bool) : Slot := { buf := mem d, len := BitVec.ofNat 16 d.length, flags := if more then 1 else 0 }

/-- A transmit queue with HEAD = CUR = HWCUR and TAIL as given. -/
def txQueue (head tail : Word) : TxQueue := { head := head, cur := head, tail := tail, hwcur := head, slots := [], wire := [] }

/-- A receive queue whose first slots, from slot `head` on, are pending. -/
def rxQueue (head : Nat) (sls : List Slot) : RxQueue :=
  { head := BitVec.ofNat 32 head, cur := BitVec.ofNat 32 head, tail := BitVec.ofNat 32 (head + sls.length)
    slots := Table.number head sls }

/-- Two transmit queues, the first full, the second with a free slot at 7 and a wrap after it. SEND is at its loop, two failed
rounds behind it, and the host waits. -/
def sendTo (frame : List Byte) : State :=
  { State.reset with
    cfg := { Config.exampleParams with numTxQueues := 2 }
    txq := [txQueue 0 0, txQueue 7 6]
    engine := .sendLoop, cmd := 4, txRounds := 2, env := { Env.empty with host := [.wait] }
    fm := mem frame, fmLen := BitVec.ofNat 32 frame.length }

/-- Two receive queues, the first with nothing pending, the second with the given slots pending from slot 2 on. RECV is at its loop,
one failed poll behind it, and the host waits. -/
def recvTo (sls : List Slot) : State :=
  { State.reset with
    cfg := { Config.exampleParams with numRxQueues := 2 }
    rxq := [rxQueue 0 [], rxQueue 2 sls]
    engine := .recvLoop, cmd := 5, rxElapsed := 100000, rxPolls := 1, env := { Env.empty with host := [.wait] }
    arg0 := Reg.set 1000000 }

/-- FM and RF with the given bytes, and their lengths. -/
def frames (f r : List Byte) : State :=
  { State.reset with
    fm := mem f, fmLen := BitVec.ofNat 32 f.length, rf := mem r, rfLen := BitVec.ofNat 32 r.length }

/-- The next state of an outcome has the property `p`. -/
def nextHas (r : Result) (p : State → Bool) : Bool :=
  match r with
  | .next s => p s
  | .fault _ => false
  | .refused _ => false

/-- An outcome that has any property of a next state is a next state. -/
theorem exists_next {r : Result} (h : nextHas r (fun _ => true) = true) : ∃ t, r = .next t := by
  cases r with
  | next t => exact ⟨t, rfl⟩
  | fault f => simp [nextHas] at h
  | refused f => simp [nextHas] at h

/-- The outcome is the fault `f`. -/
def faultsWith (r : Result) (f : Fault) : Bool :=
  match r with
  | .next _ => false
  | .fault g => g = f
  | .refused _ => false

/-! ### Well-formedness and refusals -/

/-- Every command, CSUM in both spaces, is well formed (R92, R93). -/
theorem test_every_command_is_well_formed :
    [Instr.csum .fm, .csum .rf, .wrapsum, .build, .send, .recv, .verify].all Instr.wellFormed = true := by decide

/-- The example parameters and the ends of R10's ranges are legal. -/
theorem test_legal_parameters :
    Config.exampleParams.legal ∧ Params.legal ⟨1, 1, 2, 1, 1, 1, 0, false⟩ ∧
    Params.legal ⟨64, 64, 65536, 65535, 4294967295, 4294967295, 255, true⟩ := by decide

/-- Each check of R10's table refuses a value below and a value above its range. -/
theorem test_illegal_parameters_are_refused :
    [{ Config.exampleParams with numTxQueues := 0 }, { Config.exampleParams with numTxQueues := 65 },
     { Config.exampleParams with numRxQueues := 0 }, { Config.exampleParams with numRxQueues := 65 },
     { Config.exampleParams with numSlots := 1 }, { Config.exampleParams with numSlots := 65537 },
     { Config.exampleParams with slotBufSize := 0 }, { Config.exampleParams with slotBufSize := 65536 },
     { Config.exampleParams with pollIntervalUs := 0 }, { Config.exampleParams with pollIntervalUs := 4294967296 },
     { Config.exampleParams with txBackoffUs := 0 }, { Config.exampleParams with txBackoffUs := 4294967296 },
     { Config.exampleParams with ipTtl := 256 }].all (fun p : Params => ¬ p.legal) = true := by decide

/-- Host accesses that R65 to R67 refuse: a misaligned, a narrow, an unmapped, a wide buffer access (R68). -/
theorem test_host_accesses_refused :
    target 32 0x006 = none ∧ target 16 0x004 = none ∧ target 32 0x01000 = none ∧ target 8 0x0FFFF = none ∧
    target 32 0x10000 = none ∧ target 8 0x30000 = none ∧
    target 8 0x1FFFF = some (.byte .fm 65535) ∧ target 8 0x20000 = some (.byte .rf 0) ∧ target 32 0xFFC = some (.register 0xFFC) := by
  decide

/-- The register map's corners (R30). -/
theorem test_register_map :
    regAt 0x000 = .cmd ∧ regAt 0x04C = .rfLen ∧ regAt 0x06C = .cfgTtl ∧ regAt 0x070 = .reserved ∧ regAt 0x100 = .txHead 0 ∧
    regAt 0x4F8 = .txTail 63 ∧ regAt 0x10C = .reserved ∧ regAt 0x504 = .rxCur 0 ∧ regAt 0x8F8 = .rxTail 63 ∧
    regAt 0x900 = .reserved := by decide

/-- V-Z6 to V-Z13: what the host reads right after reset of CFG_QUEUES, CFG_SLOT_BUF, the pointers of the two queues, TAIL among them
(where the chip lets the host read it, log 25), and of an absent queue. -/
theorem test_reset_reads :
    readReg (regAt 0x058) State.reset = 0x00010001 ∧ readReg (regAt 0x060) State.reset = 0x800 ∧
    readReg (regAt 0x100) State.reset = 0 ∧ readReg (regAt 0x108) State.reset = 7 ∧
    readReg (regAt 0x508) State.reset = 0 ∧ readReg (regAt 0x110) State.reset = 0 := by decide

/-- R84, D44: where the chip does not let the host read TAIL, a read of its offset says nothing of it: two states that differ only in TAIL
of a queue read the same there, and HEAD is read as ever (log 25). -/
theorem test_hidden_tail :
    let s := { State.reset with cfg := { Config.exampleParams with hostReadsTail := false } }
    let s' := { s with txq := s.txq.map fun t => { t with tail := 5 } }
    readReg (regAt 0x108) s = readReg (regAt 0x108) s' ∧ readReg (regAt 0x108) s = Config.freeRead 0 ∧
    readReg (regAt 0x100) s = 0 := ⟨rfl, rfl, rfl⟩

/-! ### Decoding: words written out from R91 and R92 (bits 31:9 zero, SP in bit 8, OPC in bits 7:0) -/

/-- CSUM over FM: OPC 0x01, SP 0. -/
theorem test_decode_csum_fm : decode 0b00000000000000000000000000000001 = .ok (.csum .fm) := by decide
/-- CSUM over RF: OPC 0x01, SP 1. -/
theorem test_decode_csum_rf : decode 0b00000000000000000000000100000001 = .ok (.csum .rf) := by decide
/-- WRAPSUM: OPC 0x02. -/
theorem test_decode_wrapsum : decode 0b00000000000000000000000000000010 = .ok .wrapsum := by decide
/-- BUILD: OPC 0x03. -/
theorem test_decode_build : decode 0b00000000000000000000000000000011 = .ok .build := by decide
/-- SEND: OPC 0x04. -/
theorem test_decode_send : decode 0b00000000000000000000000000000100 = .ok .send := by decide
/-- RECV: OPC 0x05. -/
theorem test_decode_recv : decode 0b00000000000000000000000000000101 = .ok .recv := by decide
/-- VERIFY: OPC 0x06. -/
theorem test_decode_verify : decode 0b00000000000000000000000000000110 = .ok .verify := by decide
/-- Illegal words of R96: OPC 0x00, OPC 0x07, SP set without CSUM, a bit of SUBR, the top bit. -/
theorem test_decode_illegal :
    decode 0 = .error .unknownOpcode ∧ decode 7 = .error .unknownOpcode ∧ decode 0x102 = .error .reservedSpace ∧
    decode 0x201 = .error .reservedBits ∧ decode 0x80000001 = .error .reservedBits := by decide

/-! ### One step per command -/

/-- V-C7: an end-around carry. -/
theorem test_ck_carry : ck [0xFF, 0xFF, 0x00, 0x01] 0 = 1 := by decide
/-- V-C4: a seed above 0xFFFF, one subtraction only (R120). -/
theorem test_ck_large_seed : ck [0xFF] 0x00010000 = 0x0000FF01 := by decide
/-- V-C10: the odd last byte is a high byte. -/
theorem test_ck_odd : ck [0x12, 0x34, 0x56] 0 = 0x6834 := by decide

/-- R112's example: FF FF folded from 0. -/
theorem test_csum_fm :
    nextHas (exec (.csum .fm) (withArgs 0 2 0 { State.reset with fm := mem [0xFF, 0xFF] }))
      (fun t => t.acc.value = 0xFFFF && t.code = .ok && t.engine = .idle && t.done) = true := by decide

/-- CSUM over RF at an offset reads RF, not FM. -/
theorem test_csum_rf :
    nextHas (exec (.csum .rf) (withArgs 1 3 0 { State.reset with fm := mem [0, 1, 1, 1], rf := mem [9, 0x12, 0x34, 0x56] }))
      (fun t => t.acc.value = 0x6834) = true := by decide

/-- R113's example. -/
theorem test_wrapsum :
    nextHas (exec .wrapsum (withArgs 0 0 0x0000D94B State.reset))
      (fun t => t.result0 = 0x000026B4 && t.acc.value = 0x0000D94B) = true := by decide

/-- R113's corner: bits 31:16 of ACC are ignored. -/
theorem test_wrapsum_high_bits :
    nextHas (exec .wrapsum (withArgs 0 0 0x00012345 State.reset)) (fun t => t.result0 = 0x0000DCBA) = true := by decide

/-- V-B1: the checksums of the example frame. -/
theorem test_build :
    nextHas (exec .build (specTo 60))
      (fun t => t.result0 = 0x26B4 && t.result1 = 0x698F && t.fmLen = 60 && t.fm.length = 60 && t.code = .ok) = true := by
  decide +kernel

/-- One byte short of the headers (R142). -/
theorem test_build_short :
    nextHas (exec .build (specTo 41)) (fun t => t.fatal && t.code = .layoutOverflow && t.engine = .idle) = true := by decide

/-- R181's example, with the second queue's HEAD wrapping. -/
theorem test_send :
    nextHas (exec .send (sendTo [1, 2, 3]))
      (fun t => t.result0 = 1 && t.result1 = 7 && t.result2 = 0 && t.txRounds = 0 && t.txq.map TxQueue.head = [0, 0] && t.code = .ok) = true := by
  decide

/-- As at the end of V-S6: a slot found after two failed rounds gives RESULT2 = 2; the host waits. -/
theorem test_send_after_two_rounds :
    nextHas (step (sendTo [1, 2, 3])) (fun t => t.result0 = 1 && t.result1 = 7 && t.result2 = 2 && t.code = .ok) = true := by
  decide

/-- With every queue full SEND waits: STATUS is 0x00000021. -/
theorem test_send_waits :
    nextHas (exec .send { sendTo [1] with engine := .start, txq := [txQueue 0 0, txQueue 3 3] })
      (fun t => statusWord t = 0x00000021) = true := by decide

/-- R185's example, in small: three fragments of one frame. -/
theorem test_recv :
    nextHas (exec .recv (recvTo [slotOf [1, 2] true, slotOf [3] true, slotOf [4, 5] false]))
      (fun t => t.rf = mem [1, 2, 3, 4, 5] && t.rfLen = 5 && t.rxq.map RxQueue.head = [0, 5] && t.result0 = 1
        && t.result1 = 2 && t.result2 = 3 && t.code = .ok) = true := by decide

/-- As in V-R1: a frame found after one failed poll keeps RX_ELAPSED = 100000; the host waits. -/
theorem test_recv_after_a_poll :
    nextHas (step (recvTo [slotOf [1, 2] true, slotOf [3] false]))
      (fun t => t.rfLen = 3 && t.rxElapsed = 100000 && t.result2 = 2 && t.code = .ok && t.env.host = [.wait]) = true := by decide

/-- Every pending slot has MOREFRAG = 1: STATUS is 0x00000706 (R188). -/
theorem test_recv_partial :
    nextHas (exec .recv (recvTo [slotOf [1, 2] true]))
      (fun t => statusWord t = 0x00000706 && t.rfLen = 2 && t.rxq.map RxQueue.head = [0, 2]) = true := by decide

/-- R220's example, in small. -/
theorem test_verify_mismatch :
    nextHas (exec .verify (frames [0x60, 0x61, 0x63] [0x60, 0x62, 0x64]))
      (fun t => t.result0 = 1 && t.result1 = 0x61 && t.result2 = 0x62 && t.code = .contentMismatch) = true := by decide

/-- Equal frames verify. -/
theorem test_verify_equal :
    nextHas (exec .verify (frames [1, 2] [1, 2])) (fun t => t.code = .ok && t.result0 = 0) = true := by decide

/-- V-Z15 and its like: a command that reads an unwritten register right after reset runs, in a run that is faulted from then on, so
its end is not successful (R43, R260, R293); right after reset CSUM's span is empty. -/
theorem test_unwritten_register :
    nextHas (exec .wrapsum State.reset) (fun t => t.faulted && t.done && !t.successful) = true ∧
    nextHas (exec (.csum .fm) State.reset) (fun t => t.faulted && t.done) = true ∧
    nextHas (exec .recv { recvTo [] with arg0 := Reg.unspec 32 }) (fun t => t.faulted && t.engine = .recvSleep) = true := by decide

/-- The fault pre-empts every check after the read (R248): no LAYOUT_OVERFLOW, no BAD_OPERAND, no RX_PARTIAL_FRAME, no TIMEOUT. -/
theorem test_unwritten_register_preempts :
    nextHas (exec .build State.reset) (fun t => t.faulted && t.done && !t.fatal && t.code.number = 0) = true ∧
    nextHas (exec (.csum .fm) { State.reset with arg1 := Reg.set 65537 })
      (fun t => t.faulted && t.done && t.code.number = 0 && t.result1 = 0) = true ∧
    nextHas (exec .recv { recvTo [slotOf [1, 2] true] with arg0 := Reg.unspec 32 })
      (fun t => t.faulted && t.done && !t.fatal && t.code.number = 0 && t.rf = mem [1, 2]) = true ∧
    nextHas (step { recvTo [] with engine := .recvSleep, arg0 := Reg.unspec 32 })
      (fun t => t.done && t.code.number = 0 && t.result0 = 0) = true := by decide

/-- An unwritten byte stops the command that reads it (R43, R260). -/
theorem test_unwritten_byte :
    faultsWith (exec (.csum .rf) (withArgs 0 1 0 State.reset)) (.unwrittenRead .rf 0) = true ∧
    faultsWith (exec .verify { frames [1] [1, 2] with fmLen := 2 }) (.unwrittenRead .fm 1) = true := by decide

/-- A command that reads only what has been written records no fault (R43). -/
theorem test_written_operands_record_nothing :
    nextHas (exec .wrapsum (withArgs 0 0 0 State.reset)) (fun t => !t.faulted && t.successful) = true := by decide

/-- A word placed for the next step runs at that step: VERIFY of two empty frames right after reset finishes OK. -/
theorem test_placed_word_runs_next :
    nextHas (step (State.reset.withFetchWord 32 6)) (fun t => t.done && t.code = .ok && t.engine = .idle) = true := by decide

/-- Reset while SEND waits (R280). -/
theorem test_reset :
    nextHas (step { hostTo [.reset] with engine := .sendSleep, overrun := true, cmd := 4 })
      (fun t => t.engine = .idle && !t.overrun && t.cmd = 0) = true := by decide

/-- The host's text of R100 to R102: a command issue and a wait. -/
theorem test_address_of_register : byteAddr .fm 5 = 0x10005 ∧ regOffset .arg1 = 0x00C := by decide

/-! ### Witnesses: for each obligation with hypotheses, a state and operands that meet them together -/

section Witnesses

/-- LegalCmdWriteStartsTheCommand. -/
theorem witness_legal_cmd_write :
    (hostTo [.write 32 0 6]).engine = .idle ∧ (hostTo [.write 32 0 6]).fatal = false ∧ decode 6 = .ok .verify ∧
    (hostTo [.write 32 0 6]).env.host = .write 32 0 6 :: [] := by decide +kernel

/-- IllegalCmdWriteFinishesAtOnce. -/
theorem witness_illegal_cmd_write :
    (hostTo [.write 32 0 0x102]).engine = .idle ∧ (hostTo [.write 32 0 0x102]).fatal = false ∧
    decode 0x102 = .error .reservedSpace ∧ (hostTo [.write 32 0 0x102]).env.host = .write 32 0 0x102 :: [] := by decide +kernel

/-- An accepted CSUM over RF, with `ops` still to come. -/
def accepted (ops : List HostOp) : State := { hostTo ops with engine := .start, cmd := 0x101 }

/-- StepRunsTheAcceptedCommand, each clause. -/
theorem witness_step_runs :
    (accepted []).engine = .start ∧ decode (accepted []).cmd = .ok (.csum .rf) ∧ (accepted []).env.host = [] ∧
    (accepted [.wait]).engine = .start ∧ decode (accepted [.wait]).cmd = .ok (.csum .rf) ∧
    (accepted [.wait]).env.host = .wait :: [] ∧
    (accepted [.pass, .wait]).engine = .start ∧ decode (accepted [.pass, .wait]).cmd = .ok (.csum .rf) ∧
    (accepted [.pass, .wait]).env.host = .pass :: [.wait] := by decide +kernel

/-- SEND asleep, with the count of rounds at its limit. -/
def sendAsleep : State := { State.reset with engine := .sendSleep, txRounds := 0xFFFFFFFF }

/-- SendSleepCountsTheRound. -/
theorem witness_send_sleep :
    sendAsleep.engine = .sendSleep ∧ sendAsleep.hostWaits ∧
    ({ sendAsleep with env := { Env.empty with host := [.wait] } }).hostWaits := by decide +kernel

/-- RECV asleep after no poll, with the timeout `T`. -/
def recvAsleep (T : Word) : State := { State.reset with engine := .recvSleep, arg0 := Reg.set T }

/-- RecvSleepCountsThePoll: its hypotheses, and both clauses at the boundary (POLL_INTERVAL_US is 100000). -/
theorem witness_recv_sleep :
    (∀ T ∈ [100000, 99999], (recvAsleep T).engine = .recvSleep ∧ (recvAsleep T).hostWaits ∧ (recvAsleep T).cfg.legal ∧
      (recvAsleep T).rxElapsed.toNat < 2 ^ 63) ∧
    0 + 100000 ≤ (recvAsleep 100000).arg0.value.toNat ∧ (recvAsleep 99999).arg0.value.toNat < 0 + 100000 ∧
    (recvAsleep 99999).rxPolls + 1 < 2 ^ 32 := by
  refine ⟨?_, by simp [recvAsleep, Reg.set], by simp [recvAsleep, Reg.set],
    by simp [recvAsleep, State.reset, State.resetWith]⟩
  intro T _
  exact ⟨rfl, .inl rfl, show Config.exampleParams.legal by decide +kernel, by simp [recvAsleep, State.reset, State.resetWith]⟩

/-- ChecksumStaysInSixteenBits, ChecksumClosedForm, ChecksumOrderAndEvenSplits, FilledChecksumFieldValidates: seeds and splits at
the ends of their ranges, and a word sum that is a multiple of 0xFFFF. -/
theorem witness_checksum_laws :
    (0 : Word).toNat ≤ 0xFFFF ∧ (0xFFFF : Word).toNat ≤ 0xFFFF ∧ 42 ≤ 42 ∧ 65536 ≤ 65536 ∧
    (0 : Word).toNat + wordSum [0xFF, 0xFF] ≠ 0 ∧ 0xFFFF ∣ (0 : Word).toNat + wordSum [0xFF, 0xFF] ∧
    [[1, 2], [3]].Perm [[3], ([1, 2] : List Byte)] ∧ 2 ≤ ([1, 2, 3] : List Byte).length ∧ 2 % 2 = 0 ∧
    ([0x45, 0x00] : List Byte).length % 2 = 0 := by decide +kernel

/-- CSUM over the last byte of RF. -/
def csumLast (n : Word) : State := withArgs 65535 n 0 { State.reset with rf := [(65535, 7)] }

/-- CsumFoldsItsSpan, with the span ending at 65536; and words that sum to 0xFFFF and to 0x10000. -/
theorem witness_csum :
    (csumLast 1).arg0.value.toNat + (csumLast 1).arg1.value.toNat ≤ 65536 ∧
    ([7] : List Byte).length = (csumLast 1).arg1.value.toNat ∧
    (csumLast 1).holds .rf (csumLast 1).arg0.value.toNat [7] ∧
    ((0xFFFE : Word).toNat + ((0 : Byte).toNat * 256 + (1 : Byte).toNat)) % 2 ^ 32 ≤ 0xFFFF ∧
    0xFFFF < ((0xFFFF : Word).toNat + ((0 : Byte).toNat * 256 + (1 : Byte).toNat)) % 2 ^ 32 := by decide +kernel

/-- CsumOutOfRangeIsBadOperand, one byte further. -/
theorem witness_csum_out_of_range :
    (csumLast 2).arg0.written = true ∧ (csumLast 2).arg1.written = true ∧
    65536 < (csumLast 2).arg0.value.toNat + (csumLast 2).arg1.value.toNat := by decide +kernel

/-- ChecksumOfUnwrittenStateIsTheModelFault, each clause. -/
theorem witness_checksum_unwritten :
    State.reset.acc.written = false ∧
    ({ csumLast 2 with arg1 := { value := 2, written := false } }).arg1.written = false ∧
    65536 < (csumLast 2).arg0.value.toNat + 2 ∧
    (csumLast 1).arg0.value.toNat + (csumLast 1).arg1.value.toNat ≤ 65536 ∧
    (∃ i < (csumLast 1).arg1.value.toNat, (csumLast 1).byteAt .fm ((csumLast 1).arg0.value.toNat + i) = none) ∧
    ({ csumLast 1 with acc := Reg.unspec 32 }).acc.written = false ∧
    ([7] : List Byte).length = (csumLast 1).arg1.value.toNat ∧
    ({ csumLast 1 with acc := Reg.unspec 32 }).holds .rf (csumLast 1).arg0.value.toNat [7] ∧
    nextHas (exec (.csum .rf) (csumLast 1)) (fun _ => true) = true ∧ (csumLast 1).arg0.written = true ∧
    (csumLast 1).arg1.written = true ∧ (csumLast 1).acc.written = true := by decide +kernel

/-- BuildLaysOutTheFrame, at both ends of the legal lengths. -/
theorem witness_build :
    ∀ l ∈ [42, 65536], Memory.wf 65536 (specTo l).fm ∧
      42 ≤ (specTo l).spec.frameLen.value.toNat ∧ (specTo l).spec.frameLen.value.toNat ≤ 65536 := by
  intro l hl
  simp only [List.mem_cons, List.not_mem_nil, or_false] at hl
  rcases hl with rfl | rfl <;> simp [specTo, exampleSpec, Reg.set, State.reset, State.resetWith, Memory.wf, Table.wf]

/-- The state after BUILD of the shortest frame from the example PacketSpec. -/
def built (s : State) : State := finish .ok (layOut
  { dstMacHi := 0xFFFF, dstMacLo := 0xFFFFFFFF, srcMacHi := 0, srcMacLo := 0, srcIp := 0x0A000005, dstIp := 0x0A000007
    srcPort := 1234, dstPort := 4321, filler := 0x61 } 42 s)

/-- BuiltChecksumsValidate, BuiltUdpChecksumIsRfc768, BuildChangesOnlyTheFrame. -/
theorem witness_built :
    Memory.wf 65536 (specTo 42).fm ∧ 42 ≤ (specTo 42).spec.frameLen.value.toNat ∧
    (specTo 42).spec.frameLen.value.toNat ≤ 65536 ∧ exec .build (specTo 42) = .next (built (specTo 42)) :=
  ⟨by decide +kernel, by decide +kernel, by decide +kernel, rfl⟩

/-- The example PacketSpec over an FM that is not empty. -/
def specOver : State := { specTo 42 with fm := mem [1, 2, 3], result2 := 5, overrun := true }

/-- BuildDependsOnlyOnThePacketSpec, on two states that differ. -/
theorem witness_build_twice :
    (specTo 42).spec = specOver.spec ∧ (specTo 42).cfg.ipTtl = specOver.cfg.ipTtl ∧ Memory.wf 65536 (specTo 42).fm ∧
    Memory.wf 65536 specOver.fm ∧ exec .build (specTo 42) = .next (built (specTo 42)) ∧
    exec .build specOver = .next (built specOver) ∧ 42 ≤ (specTo 42).spec.frameLen.value.toNat ∧
    (specTo 42).spec.frameLen.value.toNat ≤ 65536 ∧ (specTo 42).spec.marked = true ∧ specTo 42 ≠ specOver :=
  ⟨by decide +kernel, by decide +kernel, by decide +kernel, by decide +kernel, rfl, rfl, by decide +kernel, by decide +kernel, rfl,
    by decide +kernel⟩

/-- BuildRejectsIllegalLengths, just outside both ends, and with FRAME_LEN unwritten. -/
theorem witness_build_illegal :
    (State.reset.spec.frameLen.value.toNat < 42 ∧ State.reset.spec.frameLen.written = false) ∧
    ∀ l ∈ [41, 65537], (specTo l).spec.frameLen.written = true ∧
      ((specTo l).spec.frameLen.value.toNat < 42 ∨ 65536 < (specTo l).spec.frameLen.value.toNat) := by
  refine ⟨by decide +kernel, ?_⟩
  intro l hl
  simp only [List.mem_cons, List.not_mem_nil, or_false] at hl
  rcases hl with rfl | rfl <;> simp [specTo, exampleSpec, Reg.set]

/-- The example PacketSpec with FILLER not written. -/
def noFiller (l : Word) : State := { State.reset with spec := { exampleSpec l with filler := Reg.unspec 8 } }

/-- BuildSendRecvVerifyOfUnwrittenStateIsTheModelFault, the clauses of BUILD. -/
theorem witness_build_unwritten :
    State.reset.spec.frameLen.written = false ∧
    ∀ l ∈ [42, 65536], 42 ≤ (noFiller l).spec.frameLen.value.toNat ∧
      (noFiller l).spec.frameLen.value.toNat ≤ 65536 ∧ (noFiller l).spec.marked = false := by
  refine ⟨rfl, fun l hl => ?_⟩
  simp only [List.mem_cons, List.not_mem_nil, or_false] at hl
  rcases hl with rfl | rfl <;> simp [noFiller, exampleSpec, Reg.set, Reg.unspec, PacketSpec.marked]

/-- BuildSendRecvVerifyOfUnwrittenStateIsTheModelFault, the clauses of SEND (an unwritten last byte), RECV and VERIFY (an unwritten byte of
FM, then of RF, after one equal byte). -/
theorem witness_others_unwritten :
    (∃ t ∈ (sendTo [1]).txq, 0 < t.free (sendTo [1]).cfg.numSlots) ∧ ({ sendTo [1] with fmLen := 2 }).fmLen.toNat ≤ 2048 ∧
    (∃ i < ({ sendTo [1] with fmLen := 2 }).fmLen.toNat, ({ sendTo [1] with fmLen := 2 }).byteAt .fm i = none) ∧
    ({ sendTo [1] with fmLen := 2 }).engine = .sendLoop ∧ ({ sendTo [1] with fmLen := 2 }).hostWaits ∧
    State.reset.arg0.written = false ∧
    ({ frames [1] [1, 2] with fmLen := 2 }).fmLen = (frames [1] [1, 2]).rfLen ∧ 1 < ({ frames [1] [1, 2] with fmLen := 2 }).fmLen.toNat ∧
    (frames [1] [1, 2]).holds .fm 0 [1] ∧ (frames [1] [1, 2]).holds .rf 0 [1] ∧ (frames [1] [1, 2]).byteAt .fm 1 = none ∧
    (frames [1, 2] [1]).holds .fm 0 [1] ∧ (frames [1, 2] [1]).holds .rf 0 [1] ∧ (frames [1, 2] [1]).byteAt .fm 1 ≠ none ∧
    (frames [1, 2] [1]).byteAt .rf 1 = none := by decide +kernel

/-- A transmit queue whose slot 7 SEND has just filled and no sync has handed over. -/
def filledQueue : TxQueue := { txQueue 7 6 with head := 0, cur := 0, slots := [(7, slotOf [1, 2] false)] }

/-- SyncTxCompletesWithinInflight, with a slot to hand over and a wrap, and SyncRxNeverOverwritesPendingSlots: the last slot there is
room for, and a slot no choice reaches; listed choices. -/
theorem witness_sync :
    Config.exampleParams.legal ∧ filledQueue.head.toNat < 8 ∧ filledQueue.tail.toNat < 8 ∧ filledQueue.hwcur.toNat < 8 ∧
    0 < (filledQueue.head.toNat + (8 - filledQueue.hwcur.toNat)) % 8 ∧
    Table.read filledQueue.slots ((filledQueue.hwcur.toNat + 0) % 8) = some (slotOf [1, 2] false) ∧
    ([1, 2] : List Byte).length = (slotOf [1, 2] false).len.toNat ∧
    (∀ i < ([1, 2] : List Byte).length, Table.read (slotOf [1, 2] false).buf i = ([1, 2] : List Byte)[i]?) ∧
    (rxQueue 2 [slotOf [1] true, slotOf [2] false]).inv Config.exampleParams ∧
    1 < (rxQueue 2 [slotOf [1] true, slotOf [2] false]).pending Config.exampleParams.numSlots ∧
    (List.replicate 6 ({ len := 3, flags := 1, bytes := [9] } : SlotChoice))[4]? = some { len := 3, flags := 1, bytes := [9] } ∧
    4 < 8 - 1 - (rxQueue 2 [slotOf [1] true, slotOf [2] false]).pending Config.exampleParams.numSlots ∧
    (∀ j < min 6 (8 - 1 - (rxQueue 2 [slotOf [1] true, slotOf [2] false]).pending Config.exampleParams.numSlots),
      ((rxQueue 2 [slotOf [1] true, slotOf [2] false]).tail.toNat + j) % 8 ≠ 1) ∧
    ({ Env.empty with txScript := [[1, 0]] }).txScript = [1, 0] :: [] ∧ ({ Env.empty with rxScript := [[]] }).rxScript = [] :: [] := by
  decide +kernel

/-- RingsChangeOnlyWhileSendOrRecvRuns, ParametersNeverChange, OnlyResetClearsFatalAndOverrun, HaltedEngineOnlySetsOverrun: a halted
engine ignores a CMD write. -/
theorem witness_halted_step :
    step { hostTo [.write 32 0 6] with fatal := true, overrun := true, faulted := true } =
      .next { hostTo [.write 32 0 6] with
        fatal := true, overrun := true, faulted := true, env := { Env.empty with lastOp := some (.write 32 0 6) } } ∧
    ({ hostTo [.write 32 0 6] with fatal := true, overrun := true, faulted := true }).env.host.head? ≠ some .reset ∧
    ({ hostTo [.write 32 0 6] with fatal := true, overrun := true, faulted := true }).engine ≠ .sendLoop ∧
    ({ hostTo [.write 32 0 6] with fatal := true, overrun := true, faulted := true }).engine ≠ .recvLoop ∧
    ({ hostTo [.write 32 0 6] with fatal := true, overrun := true, faulted := true }).engine = .idle :=
  ⟨rfl, by decide +kernel, by decide +kernel, by decide +kernel, rfl⟩

/-- HaltedEngineOnlySetsOverrun: writes at both ends of what OVERRUN guards, and one next to them. -/
theorem witness_guarded_writes :
    guardedWrite 32 0x000 ∧ guardedWrite 32 0x04C ∧ guardedWrite 8 0x10000 ∧ guardedWrite 8 0x2FFFF ∧ ¬ guardedWrite 32 0x050 ∧
    nextHas (step { hostTo [.write 32 0x04C 6] with fatal := true }) State.overrun = true ∧
    nextHas (step { hostTo [.write 32 0x050 6] with fatal := true }) (fun t => !t.overrun) = true := by decide

/-- SendFillsTheFirstFreeSlot: the second queue, its HEAD wrapping; frames of 0 and of 2 bytes. -/
theorem witness_send :
    ∀ d ∈ [[], [1, 2]], (sendTo d).engine = .sendLoop ∧ (sendTo d).hostWaits ∧ (sendTo d).ringsInv ∧ (sendTo d).txq[1]? = some (txQueue 7 6) ∧
      0 < (txQueue 7 6).free (sendTo d).cfg.numSlots ∧
      (∀ q' < 1, ∀ t' ∈ (sendTo d).txq[q']?, t'.free (sendTo d).cfg.numSlots = 0) ∧
      (sendTo d).fmLen.toNat ≤ (sendTo d).cfg.slotBufSize ∧ d.length = (sendTo d).fmLen.toNat ∧ (sendTo d).holds .fm 0 d := by
  decide +kernel

/-- SendRejectsOversizedFrame: one byte more than a slot buffer takes. -/
theorem witness_send_oversized :
    ({ sendTo [] with fmLen := 2049 }).engine = .sendLoop ∧ ({ sendTo [] with fmLen := 2049 }).hostWaits ∧
    ({ sendTo [] with fmLen := 2049 }).txq[1]? = some (txQueue 7 6) ∧ 0 < (txQueue 7 6).free (sendTo []).cfg.numSlots ∧
    (∀ q' < 1, ∀ t' ∈ (sendTo []).txq[q']?, t'.free (sendTo []).cfg.numSlots = 0) ∧
    ({ sendTo [] with fmLen := 2049 }).cfg.slotBufSize < ({ sendTo [] with fmLen := 2049 }).fmLen.toNat := by decide +kernel

/-- Both transmit queues full. -/
def sendFull (script : List TxChoice) : State :=
  { sendTo [1] with
    txq := [txQueue 0 0, txQueue 7 7], engine := .start, cmd := 4, env := { Env.empty with txScript := script } }

/-- SendWaitsWhenEveryQueueIsFull. -/
theorem witness_send_full :
    (∀ t ∈ (sendFull []).txq, t.free (sendFull []).cfg.numSlots = 0) ∧ ({ sendFull [] with engine := .sendLoop }).hostWaits := by
  decide +kernel

/-- SendChangesOnlyTransmitState. -/
theorem witness_send_frame :
    (sendTo [1]).ringsInv ∧ (∃ u, (sendTo [1]).sendPass 0 u) ∧ ∃ u, (sendTo [1]).sendPass 2 u := by
  obtain ⟨u, hu⟩ := exists_next (r := exec .send (sendTo [1])) (by decide +kernel)
  obtain ⟨v, hv⟩ := exists_next (r := step (sendTo [1])) (by decide +kernel)
  exact ⟨by decide +kernel, ⟨u, .inl ⟨hu, rfl⟩⟩, v, .inr ⟨rfl, .inr rfl, hv, rfl⟩⟩

/-- SendRetriesWithoutBound, for no round and for two. -/
theorem witness_send_forever :
    ∀ n ∈ [0, 2], (sendFull (List.replicate (n + 1) [])).engine = .start ∧
      decode (sendFull (List.replicate (n + 1) [])).cmd = .ok .send ∧ (sendFull (List.replicate (n + 1) [])).hostWaits ∧
      (sendFull (List.replicate (n + 1) [])).ringsInv ∧
      (∀ t ∈ (sendFull (List.replicate (n + 1) [])).txq, t.free (sendFull (List.replicate (n + 1) [])).cfg.numSlots = 0) ∧
      (sendFull (List.replicate (n + 1) [])).env.txScript = List.replicate (n + 1) [] ++ [] := by decide +kernel

/-- The slot at an index is listed with these bytes and this MOREFRAG bit. -/
theorem slotIs_slotOf {r : RxQueue} {i : Nat} {d : List Byte} {more : Bool} (h : Table.read r.slots i = some (slotOf d more))
    (hl : d.length < 65536) : r.slotIs i d more := by
  refine ⟨_, h, ?_, by cases more <;> simp [slotOf], fun j hj => ?_⟩
  · simp only [slotOf, BitVec.toNat_ofNat]
    omega
  · have := Table.read_number_append (Nat.zero_le j) d []
    rw [List.append_nil, if_pos (by omega)] at this
    exact this

/-- A queue whose first pending slot holds `d` with MOREFRAG = 1. -/
theorem fragments_one {sls : List Slot} {d : List Byte} (h0 : Table.read (rxQueue 2 sls).slots 2 = some (slotOf d true))
    (hd : d.length ≤ 2048) : (rxQueue 2 sls).fragments Config.exampleParams [d] := by
  intro i e he
  cases i with
  | zero =>
    simp only [List.getElem?_cons_zero, Option.some.injEq] at he
    subst he
    exact ⟨slotIs_slotOf h0 (by omega), hd⟩
  | succ i => simp at he

/-- RecvReassemblesTheFrame: one fragment and the last slot, in the second queue. -/
theorem witness_recv :
    (recvTo []).engine = .recvLoop ∧ (recvTo []).hostWaits ∧ (recvTo []).rfLen = 0 ∧
    (recvTo [slotOf [1, 2] true, slotOf [3] false]).ringsInv ∧ Memory.wf 65536 (recvTo []).rf ∧
    (recvTo [slotOf [1, 2] true, slotOf [3] false]).rxq[1]? = some (rxQueue 2 [slotOf [1, 2] true, slotOf [3] false]) ∧
    (∀ q' < 1, ∀ r' ∈ (recvTo [slotOf [1, 2] true, slotOf [3] false]).rxq[q']?, r'.pending 8 = 0) ∧
    ([[1, 2]] : List (List Byte)).length + 1 ≤ (rxQueue 2 [slotOf [1, 2] true, slotOf [3] false]).pending 8 ∧
    (rxQueue 2 [slotOf [1, 2] true, slotOf [3] false]).fragments Config.exampleParams [[1, 2]] ∧
    (rxQueue 2 [slotOf [1, 2] true, slotOf [3] false]).slotIs (ringAdd 8 2 1).toNat [3] false ∧
    ([3] : List Byte).length ≤ 2048 ∧ (([[1, 2]] : List (List Byte)).flatten ++ [3]).length ≤ 65536 :=
  ⟨rfl, .inr rfl, rfl, by decide +kernel, by decide +kernel, by decide +kernel, by decide +kernel, by decide +kernel, fragments_one (by decide +kernel) (by decide +kernel),
    slotIs_slotOf (by decide +kernel) (by decide +kernel), by decide +kernel, by decide +kernel⟩

/-- RecvHaltsOnPartialFrame. -/
theorem witness_recv_partial :
    Memory.wf 65536 (recvTo [slotOf [1, 2] true]).rf ∧
    (recvTo [slotOf [1, 2] true]).ringsInv ∧ (recvTo [slotOf [1, 2] true]).rxq[1]? = some (rxQueue 2 [slotOf [1, 2] true]) ∧
    (∀ q' < 1, ∀ r' ∈ (recvTo [slotOf [1, 2] true]).rxq[q']?, r'.pending 8 = 0) ∧
    0 < (rxQueue 2 [slotOf [1, 2] true]).pending 8 ∧
    ([[1, 2]] : List (List Byte)).length = (rxQueue 2 [slotOf [1, 2] true]).pending 8 ∧
    (rxQueue 2 [slotOf [1, 2] true]).fragments Config.exampleParams [[1, 2]] ∧
    ([[1, 2]] : List (List Byte)).flatten.length ≤ 65536 :=
  ⟨by decide +kernel, by decide +kernel, by decide +kernel, by decide +kernel, by decide +kernel, by decide +kernel, fragments_one (by decide +kernel) (by decide +kernel), by decide +kernel⟩

/-- A slot whose length claims one byte more than a slot buffer of the example parameters takes. -/
def longSlot : Slot := { buf := [], len := 2049, flags := 0 }

/-- RecvHaltsOnOversizedFrame, check 1, after one fragment. -/
theorem witness_recv_slot_too_long :
    Memory.wf 65536 (recvTo [slotOf [1, 2] true, longSlot]).rf ∧
    ([[1, 2]] : List (List Byte)).flatten.length ≤ 65536 ∧
    (recvTo [slotOf [1, 2] true, longSlot]).ringsInv ∧
    (recvTo [slotOf [1, 2] true, longSlot]).rxq[1]? = some (rxQueue 2 [slotOf [1, 2] true, longSlot]) ∧
    (∀ q' < 1, ∀ r' ∈ (recvTo [slotOf [1, 2] true, longSlot]).rxq[q']?, r'.pending 8 = 0) ∧
    ([[1, 2]] : List (List Byte)).length + 1 ≤ (rxQueue 2 [slotOf [1, 2] true, longSlot]).pending 8 ∧
    (rxQueue 2 [slotOf [1, 2] true, longSlot]).fragments Config.exampleParams [[1, 2]] ∧
    Table.read (rxQueue 2 [slotOf [1, 2] true, longSlot]).slots (ringAdd 8 2 1).toNat = some longSlot ∧
    2048 < longSlot.len.toNat :=
  ⟨by decide +kernel, by decide +kernel, by decide +kernel, by decide +kernel, by decide +kernel, by decide +kernel, fragments_one (by decide +kernel) (by decide +kernel), by decide +kernel, by decide +kernel⟩

/-- RECV at its loop with ARG0 unwritten, and the given slots pending. -/
def recvUnwritten (sls : List Slot) : State := { recvTo sls with arg0 := Reg.unspec 32 }

/-- BuildSendRecvVerifyOfUnwrittenStateIsTheModelFault, RECV's passes and the end of its sleep; RecvHaltsOnPartialFrame,
RecvHaltsOnOversizedFrame, RecvSleepCountsThePoll and RecvTimesOutWithinOneInterval, the clauses of an unwritten ARG0 (the other
hypotheses do not speak of ARG0). -/
theorem witness_recv_unwritten :
    (recvUnwritten [slotOf [1, 2] true]).arg0.written = false ∧
    (∃ u, (recvUnwritten [slotOf [1, 2] true]).recvPass { elapsed := 0, polls := 0, faulted := true } u) ∧
    (∃ u, (recvUnwritten [slotOf [1, 2] true]).recvPass { elapsed := 100000, polls := 1, faulted := false } u) ∧
    ({ recvUnwritten [] with engine := .recvSleep }).engine = .recvSleep ∧
    ({ recvUnwritten [] with engine := .recvSleep }).hostWaits ∧
    ({ recvUnwritten [] with engine := .recvSleep }).arg0.value.toNat <
      ({ recvUnwritten [] with engine := .recvSleep }).rxElapsed.toNat := by
  obtain ⟨u, hu⟩ := exists_next (r := exec .recv (recvUnwritten [slotOf [1, 2] true])) (by decide +kernel)
  obtain ⟨v, hv⟩ := exists_next (r := step (recvUnwritten [slotOf [1, 2] true])) (by decide +kernel)
  exact ⟨rfl, ⟨u, .inl ⟨hu, rfl⟩⟩, ⟨v, .inr ⟨rfl, .inr rfl, hv, rfl⟩⟩, rfl, .inr rfl, by decide +kernel⟩

/-- RecvReassemblesTheFrame and RecvChangesOnlyReceiveState: a slot that is still pending after a frame of one slot. -/
theorem witness_recv_still_pending :
    ([] : List (List Byte)).length + 1 ≤ 1 ∧ 1 < (rxQueue 2 [slotOf [3] false, slotOf [9] false]).pending 8 ∧
    (rxQueue 2 [slotOf [3] false, slotOf [9] false]).slotIs (ringAdd 8 2 0).toNat [3] false ∧
    nextHas (exec .recv { recvTo [slotOf [3] false, slotOf [9] false] with env := { Env.empty with rxScript := [[]] } })
      (fun t => t.rf = mem [3] && (t.rxq[1]?).map (fun r => Table.read r.slots 3) = some (some (slotOf [9] false))) = true :=
  ⟨by decide, by decide +kernel, slotIs_slotOf (by decide +kernel) (by decide), by decide +kernel⟩

/-- The longest slot the length register can say, and slot buffers that take it. -/
def fullSlot : List Byte := List.replicate 65535 0

/-- Two pending slots, 65535 bytes and 2 bytes: one byte more than RF takes. -/
def recvBeyond : State :=
  { recvTo [slotOf fullSlot true, slotOf [1, 2] false] with
    cfg := { Config.exampleParams with numRxQueues := 2, slotBufSize := 65535 } }

/-- A byte sequence laid out from 0 on is canonical. -/
theorem wf_mem (d : List Byte) {cap : Nat} (h : d.length ≤ cap) : Memory.wf cap (mem d) :=
  ⟨Table.pairwise_number 0 d, fun _ hc => by have := (Table.mem_number hc).2; omega⟩

/-- RecvHaltsOnOversizedFrame, check 2: each slot fits its buffer, the frame does not fit RF. -/
theorem witness_recv_frame_too_long :
    Memory.wf 65536 recvBeyond.rf ∧
    recvBeyond.ringsInv ∧
    recvBeyond.rxq[1]? = some (rxQueue 2 [slotOf fullSlot true, slotOf [1, 2] false]) ∧
    (∀ q' < 1, ∀ r' ∈ recvBeyond.rxq[q']?, r'.pending 8 = 0) ∧
    ([fullSlot] : List (List Byte)).length + 1 ≤ (rxQueue 2 [slotOf fullSlot true, slotOf [1, 2] false]).pending 8 ∧
    (rxQueue 2 [slotOf fullSlot true, slotOf [1, 2] false]).fragments recvBeyond.cfg [fullSlot] ∧
    ([fullSlot] : List (List Byte)).flatten.length ≤ 65536 ∧
    Table.read (rxQueue 2 [slotOf fullSlot true, slotOf [1, 2] false]).slots (ringAdd 8 2 1).toNat = some (slotOf [1, 2] false) ∧
    (slotOf [1, 2] false).len.toNat ≤ 65535 ∧
    65536 < ([fullSlot] : List (List Byte)).flatten.length + (slotOf [1, 2] false).len.toNat := by
  have hf : fullSlot.length = 65535 := List.length_replicate
  refine ⟨by decide +kernel, ⟨by decide +kernel, rfl, rfl, by decide +kernel, ?_⟩, rfl, ?_, by decide +kernel, ?_, ?_, rfl, by decide +kernel, ?_⟩
  · intro r hr
    have hr' : r = rxQueue 0 [] ∨ r = rxQueue 2 [slotOf fullSlot true, slotOf [1, 2] false] := by
      simpa [recvBeyond, recvTo] using hr
    rcases hr' with rfl | rfl
    · decide +kernel
    · refine ⟨rfl, by decide +kernel, by decide +kernel, ⟨Table.pairwise_number _ _, fun c hc => ?_⟩, fun c hc => ?_⟩
      · have := (Table.mem_number hc).2
        change c.1 < 8
        simp only [List.length_cons, List.length_nil] at this
        omega
      · have hc' : c = (2, slotOf fullSlot true) ∨ c = (3, slotOf [1, 2] false) := by
          simpa [rxQueue, Table.number] using hc
        rcases hc' with rfl | rfl
        · exact wf_mem fullSlot (Nat.le_of_eq hf)
        · exact wf_mem [1, 2] (by decide +kernel)
  · intro q' hq' r' hr'
    obtain rfl : q' = 0 := by omega
    have : r' = rxQueue 0 [] := by simpa [recvBeyond, recvTo] using hr'.symm
    subst this
    decide +kernel
  · intro i e he
    cases i with
    | zero =>
      simp only [List.getElem?_cons_zero, Option.some.injEq] at he
      subst he
      exact ⟨slotIs_slotOf rfl (by omega), Nat.le_of_eq hf⟩
    | succ i => simp at he
  · simp [hf]
  · simp only [List.flatten_cons, List.flatten_nil, List.append_nil, hf]
    decide +kernel

/-- RecvWaitsWhenNothingIsPending. -/
theorem witness_recv_waits :
    (recvTo []).engine = .recvLoop ∧ (recvTo []).hostWaits ∧ (recvTo []).rfLen = 0 ∧
    ∀ r ∈ (recvTo []).rxq, r.pending (recvTo []).cfg.numSlots = 0 := by decide +kernel

/-- RecvChangesOnlyReceiveState. -/
theorem witness_recv_frame :
    (recvTo [slotOf [1] false]).ringsInv ∧ Memory.wf 65536 (recvTo [slotOf [1] false]).rf ∧
    (∃ u, (recvTo [slotOf [1] false]).recvPass { elapsed := 0, polls := 0, faulted := false } u) ∧
    ∃ u, (recvTo [slotOf [1] false]).recvPass { elapsed := 100000, polls := 1, faulted := false } u := by
  obtain ⟨u, hu⟩ := exists_next (r := exec .recv (recvTo [slotOf [1] false])) (by decide +kernel)
  obtain ⟨v, hv⟩ := exists_next (r := step (recvTo [slotOf [1] false])) (by decide +kernel)
  exact ⟨by decide +kernel, by decide +kernel, ⟨u, .inl ⟨hu, rfl⟩⟩, v, .inr ⟨rfl, .inr rfl, hv, rfl⟩⟩

/-- RECV accepted with timeout `T`, nothing pending, and a substrate that publishes nothing but at the last sync. -/
def recvQuiet (T : Word) (n : Nat) : State :=
  { recvTo [] with
    engine := .start, cmd := 5, arg0 := Reg.set T
    env := { Env.empty with rxScript := List.replicate n [] ++ [[[{ len := 1, flags := 0, bytes := [7] }]]] } }

/-- RecvTimesOutWithinOneInterval and RecvAlwaysFinishes, a timeout of 0: one attempt. -/
theorem witness_recv_times_out_at_once :
    (recvQuiet 0 0).engine = .start ∧ decode (recvQuiet 0 0).cmd = .ok .recv ∧ (recvQuiet 0 0).hostWaits ∧
    (recvQuiet 0 0).ringsInv ∧
    (∀ r ∈ (recvQuiet 0 0).rxq, r.pending (recvQuiet 0 0).cfg.numSlots = 0) ∧
    1 = (recvQuiet 0 0).arg0.value.toNat / (recvQuiet 0 0).cfg.pollIntervalUs + 1 ∧
    (recvQuiet 0 0).env.rxScript = List.replicate (1 - 1) [] ++ [[{ len := 1, flags := 0, bytes := [7] }]] :: [] :=
  ⟨rfl, rfl, .inl rfl, by decide +kernel, by decide +kernel, by decide +kernel, rfl⟩

/-- The same with a timeout of one interval: two attempts. -/
theorem witness_recv_times_out :
    (recvQuiet 100000 1).engine = .start ∧ decode (recvQuiet 100000 1).cmd = .ok .recv ∧ (recvQuiet 100000 1).hostWaits ∧
    (recvQuiet 100000 1).ringsInv ∧
    (∀ r ∈ (recvQuiet 100000 1).rxq, r.pending (recvQuiet 100000 1).cfg.numSlots = 0) ∧
    2 = (recvQuiet 100000 1).arg0.value.toNat / (recvQuiet 100000 1).cfg.pollIntervalUs + 1 ∧
    (recvQuiet 100000 1).env.rxScript = List.replicate (2 - 1) [] ++ [[{ len := 1, flags := 0, bytes := [7] }]] :: [] :=
  ⟨rfl, rfl, .inl rfl, by decide +kernel, by decide +kernel, by decide +kernel, rfl⟩

/-- VerifyReportsLengthMismatch, lengths one apart. -/
theorem witness_verify_lengths : (frames [1] [1, 2]).fmLen ≠ (frames [1] [1, 2]).rfLen := by decide +kernel

/-- VerifyReportsTheFirstDifference: at the first byte and at the last. -/
theorem witness_verify_difference :
    (frames [1, 2] [3, 4]).fmLen = (frames [1, 2] [3, 4]).rfLen ∧ 0 < (frames [1, 2] [3, 4]).fmLen.toNat ∧
    (frames [1, 2] [3, 4]).holds .fm 0 ([] ++ [1]) ∧ (frames [1, 2] [3, 4]).holds .rf 0 ([] ++ [3]) ∧ (1 : Byte) ≠ 3 ∧
    1 < (frames [1, 2] [1, 4]).fmLen.toNat ∧ (frames [1, 2] [1, 4]).holds .fm 0 ([1] ++ [2]) ∧
    (frames [1, 2] [1, 4]).holds .rf 0 ([1] ++ [4]) := by decide +kernel

/-- VerifySucceedsOnlyOnEquality: equal frames, and frames of different lengths. -/
theorem witness_verify_equality :
    ∀ e ∈ [[1, 2], [1]], ([1, 2] : List Byte).length = (frames [1, 2] e).fmLen.toNat ∧ e.length = (frames [1, 2] e).rfLen.toNat ∧
      (frames [1, 2] e).holds .fm 0 [1, 2] ∧ (frames [1, 2] e).holds .rf 0 e := by decide +kernel

/-- CommandsKeepTheOperandRegisters: a command with every operand register written, and one in a faulted run. -/
theorem witness_exec_next :
    (∃ t, exec .verify (withArgs 0 0 0 (specTo 42)) = .next t) ∧
    (withArgs 0 0 0 (specTo 42)).arg0.written = true ∧ (withArgs 0 0 0 (specTo 42)).arg1.written = true ∧
    (withArgs 0 0 0 (specTo 42)).acc.written = true ∧ (withArgs 0 0 0 (specTo 42)).spec.marked = true ∧
    ∃ t, exec .verify { State.reset with faulted := true } = .next t :=
  ⟨exists_next (by decide +kernel), rfl, rfl, rfl, rfl, exists_next (by decide +kernel)⟩

/-- WritesWhileBusyOrHaltedAreIgnored: both ends of the buffers and of the register list, busy and halted. -/
theorem witness_ignored_writes :
    (({ hostTo [.write 8 0x10000 1] with engine := .recvSleep }).engine ≠ .idle ∨ State.reset.fatal = true) ∧
    (0x10000 ≤ (0x10000 : HostAddr).toNat ∧ (0x10000 : HostAddr).toNat < 0x30000) ∧
    (0x10000 ≤ (0x2FFFF : HostAddr).toNat ∧ (0x2FFFF : HostAddr).toNat < 0x30000) ∧
    ({ hostTo [.write 32 0x04C 1] with fatal := true }).fatal = true ∧
    ({ hostTo [.write 32 0x04C 1] with fatal := true }).env.host = .write 32 0x04C 1 :: [] ∧
    (0x04C : HostAddr).toNat ∈
      [0x000, 0x008, 0x00C, 0x010, 0x020, 0x024, 0x028, 0x02C, 0x030, 0x034, 0x038, 0x03C, 0x040, 0x044, 0x048, 0x04C] ∧
    (0x000 : HostAddr).toNat ∈
      [0x000, 0x008, 0x00C, 0x010, 0x020, 0x024, 0x028, 0x02C, 0x030, 0x034, 0x038, 0x03C, 0x040, 0x044, 0x048, 0x04C] := by
  decide +kernel

/-- WritesToReadOnlyOffsetsAreIgnored: STATUS, the RESULT registers' ends, the first and the last offset from 0x050 on. -/
theorem witness_read_only_writes :
    ∀ a ∈ [(0x004 : HostAddr), 0x014, 0x01C, 0x050, 0xFFC], (hostTo [.write 32 a 1]).env.host = .write 32 a 1 :: [] ∧
      a.toNat < 0x1000 ∧ a.toNat % 4 = 0 ∧
      (a.toNat = 0x004 ∨ (0x014 ≤ a.toNat ∧ a.toNat ≤ 0x01C) ∨ 0x050 ≤ a.toNat) := by
  intro a ha
  simp only [List.mem_cons, List.not_mem_nil, or_false] at ha
  rcases ha with rfl | rfl | rfl | rfl | rfl <;> exact ⟨rfl, by simp, by simp, by simp⟩

/-- HostReadsReturnTheValueAndChangeNothing and IllegalHostAccessesAreRefused: accesses that are made, at the ends of the window and
of the buffers, and one that is refused. -/
theorem witness_host_access :
    (hostTo [.read 32 0x004]).env.host = .read 32 0x004 :: [] ∧ (hostTo [.read 16 0x004]).env.host = .read 16 0x004 :: [] ∧
    (hostTo [.write 32 0x10000 1]).env.host = .write 32 0x10000 1 :: [] ∧
    legalAccess 32 0x000 ∧ legalAccess 32 0xFFC ∧ legalAccess 8 0x10000 ∧ legalAccess 8 0x2FFFF ∧ ¬ legalAccess 16 0x004 := by decide +kernel

/-- HostReadsReturnTheValueAndChangeNothing: a state that shows each clause something other than 0: written operand registers, an
absent queue, reserved offsets at the edges of their ranges, and a written byte at the end of RF. -/
theorem witness_host_read_values :
    State.reset.engine = .idle ∧ (exampleSpec 60).dstMacHi.written = true ∧ (exampleSpec 60).filler.written = true ∧
    (csumLast 1).arg0.written = true ∧ Config.exampleParams.legal ∧ State.reset.txq[1]? = none ∧
    (State.reset.txq[0]?).map TxQueue.tail = some 7 ∧ State.reset.cfg.hostReadsTail = true ∧
    { Config.exampleParams with hostReadsTail := false }.legal ∧ (0x508 : HostAddr).toNat = 0x508 + 0x10 * 0 ∧
    (0x10C : HostAddr).toNat % 0x10 = 0xC ∧ 0x070 ≤ (0x0FC : HostAddr).toNat ∧ 0x900 ≤ (0x900 : HostAddr).toNat ∧
    byteAddr .rf 65535 = 0x2FFFF ∧ (csumLast 1).byteAt .rf 65535 = some 7 ∧ (csumLast 1).engine = .idle := by decide +kernel

/-- HostByteWriteWritesOneByte: the first and the last byte of FM and of RF. -/
theorem witness_host_byte_write :
    ∀ sp ∈ [Space.fm, .rf], ∀ a ∈ [0, 65535], (hostTo [.write 8 (byteAddr sp a) 5]).engine = .idle ∧
      (hostTo [.write 8 (byteAddr sp a) 5]).fatal = false ∧
      Memory.wf 65536 ((hostTo [.write 8 (byteAddr sp a) 5]).memory sp) ∧ a < 65536 ∧
      (hostTo [.write 8 (byteAddr sp a) 5]).env.host = .write 8 (byteAddr sp a) 5 :: [] := by decide +kernel

/-- RegisterWritesSetOneRegisterAndReadBack: FM_LEN at its limit and one above, and a 16-bit register. -/
theorem witness_read_back :
    ∀ x ∈ [((0x048 : HostAddr), (65536 : Word)), (0x048, 65537), (0x020, 0xFFFFFFFF)],
      (hostTo [.write 32 x.1 x.2, .read 32 x.1]).engine = .idle ∧ (hostTo [.write 32 x.1 x.2, .read 32 x.1]).fatal = false ∧
      (hostTo [.write 32 x.1 x.2, .read 32 x.1]).env.host = .write 32 x.1 x.2 :: .read 32 x.1 :: [] ∧
      x.1.toNat ∈ [0x008, 0x00C, 0x010, 0x020, 0x024, 0x028, 0x02C, 0x030, 0x034, 0x038, 0x03C, 0x040, 0x044, 0x048, 0x04C] := by
  intro x hx
  simp only [List.mem_cons, List.not_mem_nil, or_false] at hx
  rcases hx with rfl | rfl | rfl <;> exact ⟨rfl, rfl, rfl, by simp⟩

/-- StatusReadsItsFieldsAtAnyTime: in a poll wait, which is phase 3, and halted with the last code. -/
theorem witness_status_read :
    ({ hostTo [.read 32 4] with engine := .recvSleep }).env.host = .read 32 4 :: [] ∧
    ({ hostTo [.read 32 4] with engine := .recvSleep }).engine = .recvSleep ∧
    ({ hostTo [.read 32 4] with code := .rxPartialFrame }).code = .rxPartialFrame := by decide +kernel

/-- StepKeepsTheBuffersCanonical, StepKeepsTheRings, StepKeepsTheLengthsLegal, StepKeepsStatusConsistent: a state in which SEND is
about to send, and its next step. -/
theorem witness_invariants :
    ({ sendTo [1, 2] with engine := .start, cmd := 4 }).buffersInv ∧ ({ sendTo [1, 2] with engine := .start, cmd := 4 }).ringsInv ∧
    ({ sendTo [1, 2] with engine := .start, cmd := 4 }).lengthsInv ∧
    ({ sendTo [1, 2] with engine := .start, cmd := 4 }).statusInv ∧
    ∃ t, step { sendTo [1, 2] with engine := .start, cmd := 4 } = .next t :=
  ⟨by decide +kernel, by decide +kernel, by decide +kernel, by decide +kernel, exists_next (by decide +kernel)⟩

/-- StepKeepsPendingSlotsWritten: one pending slot, and RECV about to run. -/
theorem witness_pending :
    ({ recvTo [slotOf [1] false] with engine := .start, cmd := 5 }).ringsInv ∧
    ({ recvTo [slotOf [1] false] with engine := .start, cmd := 5 }).pendingInv ∧
    ∃ t, step { recvTo [slotOf [1] false] with engine := .start, cmd := 5 } = .next t := by
  refine ⟨by decide +kernel, ?_, exists_next (by decide +kernel)⟩
  intro r hr j hj
  have hr' : r = rxQueue 0 [] ∨ r = rxQueue 2 [slotOf [1] false] := by simpa [recvTo] using hr
  rcases hr' with rfl | rfl
  · exact absurd (show j < 0 from hj) (Nat.not_lt_zero j)
  · have hj' : j < 1 := hj
    obtain rfl : j = 0 := by omega
    exact ⟨slotOf [1] false, by decide +kernel, by decide +kernel⟩

/-- ResetLeavesTheResetState and ResetMeetsTheInvariants. -/
theorem witness_reset :
    ({ hostTo [.reset] with engine := .sendSleep }).env.host = .reset :: [] ∧ Config.exampleParams.legal := by decide +kernel

end Witnesses

end Sys2Proof.Tests
end

/-! SUPPORT. What every step keeps, packaged once; the frames of the six commands. -/

namespace Sys2Proof.Machine

/-! ### What a scan finds is a queue of the block -/

theorem firstFree_mem {s : State} {q : Nat} {t : TxQueue} (h : firstFree s = some (q, t)) : t ∈ s.txq :=
  List.mem_of_getElem? (firstFree_eq_some.1 h).1

theorem firstPending_mem {s : State} {q : Nat} {r : RxQueue} (h : firstPending s = some (q, r)) : r ∈ s.rxq :=
  List.mem_of_getElem? (firstPending_eq_some.1 h).1

/-! ### The host's writes -/

/-- The ways a host write can end: ignored, ignored with OVERRUN, a command issued, one operand stored, or one byte. -/
theorem writeTarget_cases (tgt : Target) (v : Word) (s : State) :
    writeTarget tgt v s = s ∨
    (s.accepting = false ∧ writeTarget tgt v s = setOverrun s) ∨
    (s.accepting = true ∧ writeTarget tgt v s = issue v s) ∨
    (s.accepting = true ∧ ∃ a0 a1 sum p fl rl,
      writeTarget tgt v s = { s with arg0 := a0, arg1 := a1, acc := sum, spec := p, fmLen := fl, rfLen := rl } ∧
      (fl = s.fmLen ∨ fl.toNat ≤ 65536) ∧ (rl = s.rfLen ∨ rl.toNat ≤ 65536)) ∨
    (s.accepting = true ∧ ∃ sp a, tgt = .byte sp a ∧ writeTarget tgt v s = s.writeByte sp a (v.setWidth 8)) := by
  cases tgt with
  | register offset =>
    rcases writeReg_cases (regAt offset) v s with h | h | ⟨ha, -, h⟩ | h
    · exact .inl h
    · exact .inr (.inl h)
    · exact .inr (.inr (.inl ⟨ha, h⟩))
    · exact .inr (.inr (.inr (.inl h)))
  | byte sp a =>
    cases ha : s.accepting with
    | false => exact .inr (.inl ⟨rfl, guardWrite_of_not_accepting ha _⟩)
    | true => exact .inr (.inr (.inr (.inr ⟨rfl, sp, a, rfl, guardWrite_of_accepting ha _⟩)))

/-- What issuing a command keeps: it touches CMD, STATUS and the results alone. -/
theorem issue_keeps {α : Type} {f : State → α} (w : Word) (s : State) (ha : f (accept w s) = f s)
    (hf : f (finish .illegalCommand (accept w s)) = f s) : f (issue w s) = f s := by
  rcases issue_cases w s with ⟨_, -, h⟩ | ⟨_, -, h⟩ <;> rw [h]
  · exact ha
  · exact hf

/-- A host write leaves the parameters and both rings alone. -/
theorem writeTarget_rings (tgt : Target) (v : Word) (s : State) :
    (writeTarget tgt v s).cfg = s.cfg ∧ (writeTarget tgt v s).txq = s.txq ∧ (writeTarget tgt v s).rxq = s.rxq := by
  rcases writeTarget_cases tgt v s with h | ⟨-, h⟩ | ⟨-, h⟩ | ⟨-, _, _, _, _, _, _, h, -⟩ | ⟨-, sp, _, -, h⟩ <;> rw [h]
  · exact ⟨rfl, rfl, rfl⟩
  · exact ⟨rfl, rfl, rfl⟩
  · exact ⟨issue_keeps v s rfl rfl, issue_keeps v s rfl rfl, issue_keeps v s rfl rfl⟩
  · exact ⟨rfl, rfl, rfl⟩
  · cases sp <;> exact ⟨rfl, rfl, rfl⟩

/-! ### What every step keeps -/

/-- An invariant of the machine: what does not speak of the environment, and what the engine, a host write and a reset keep, every
step keeps (R22). -/
theorem step_keeps {P : State → Prop} (henv : ∀ s e, P s → P { s with env := e })
    (hengine : ∀ s t, P s → engineStep s = .next t → P t) (hwrite : ∀ tgt v s, P s → P (writeTarget tgt v s))
    (hreset : ∀ s, P s → P (resetBlock s)) {s t : State} (hs : P s) (h : step s = .next t) : P t := by
  rcases step_eq_next h with ⟨s', hs', -, he⟩ | ⟨op, rest, -, hop⟩
  · rcases hs' with rfl | ⟨rest, -, rfl⟩
    · exact hengine _ _ hs he
    · exact hengine _ _ (henv s _ hs) he
  · rcases hop with ⟨_, _, -, _, rfl⟩ | ⟨_, _, v, tgt, -, -, rfl⟩ | ⟨-, -, rfl⟩ | ⟨-, rfl⟩
    · exact henv s _ hs
    · exact hwrite tgt v _ (henv s _ hs)
    · exact henv s _ hs
    · exact hreset _ (henv s _ hs)

/-! ### What no command changes -/

/-- `t` has the parameters, CMD, OVERRUN, ARG0, ARG1 and the PacketSpec registers of `s`. -/
structure State.SameOperands (s t : State) : Prop where
  cfg : t.cfg = s.cfg
  cmd : t.cmd = s.cmd
  overrun : t.overrun = s.overrun
  arg0 : t.arg0 = s.arg0
  arg1 : t.arg1 = s.arg1
  spec : t.spec = s.spec

theorem sendAttempt_sameOperands {s t : State} (h : sendAttempt s = .next t) : s.SameOperands t := by
  rcases sendAttempt_eq_next h with ⟨-, rfl⟩ | ⟨_, _, -, ⟨-, rfl⟩ | ⟨-, _, -, rfl⟩⟩ <;> constructor <;> rfl

theorem endDrain_sameOperands (q : Nat) (r : RxQueue) (d : Drain) (how : DrainEnd) (s : State) :
    s.SameOperands (endDrain q r d how s) := by
  cases how
  case whole => rw [endDrain_whole]; constructor <;> rfl
  case cut => rw [endDrain_cut]; constructor <;> rfl
  case slotTooLong => rw [endDrain_slotTooLong]; constructor <;> rfl
  case frameTooLong => rw [endDrain_frameTooLong]; constructor <;> rfl

theorem recvAttempt_sameOperands {s t : State} (h : recvAttempt s = .next t) : s.SameOperands t := by
  rcases recvAttempt_eq_next h with ⟨-, rfl⟩ | ⟨q, r, -, rfl⟩
  · constructor <;> rfl
  · exact endDrain_sameOperands q r _ _ s

theorem reportComparison_sameOperands (d : Option Difference) (s : State) : s.SameOperands (reportComparison d s) := by
  cases d <;> constructor <;> rfl

/-- Laying out a frame changes FM, FM_LEN, two results and `bacc` alone (R151). -/
theorem layOut_keeps (f : FrameFields) (l : Nat) (s : State) :
    s.SameOperands (layOut f l s) ∧ (layOut f l s).acc = s.acc ∧ (layOut f l s).fatal = s.fatal ∧
    (layOut f l s).rfLen = s.rfLen ∧ (layOut f l s).txq = s.txq ∧ (layOut f l s).rxq = s.rxq := by
  unfold layOut
  exact ⟨⟨placeFrame_cfg .., placeFrame_cmd .., placeFrame_overrun .., placeFrame_arg0 .., placeFrame_arg1 .., placeFrame_spec ..⟩,
    placeFrame_acc .., placeFrame_fatal .., placeFrame_rfLen .., placeFrame_txq .., placeFrame_rxq ..⟩

/-- BUILD changes no operand register, no ring and not RF_LEN, whatever the length (R151). -/
theorem execBuild_keeps {s t : State} (h : execBuild s = .next t) :
    s.SameOperands t ∧ t.acc = s.acc ∧ t.rfLen = s.rfLen ∧ t.txq = s.txq ∧ t.rxq = s.rxq := by
  rcases execBuild_eq_next h with ⟨-, rfl⟩ | ⟨-, -, rfl⟩
  · exact ⟨by constructor <;> rfl, rfl, rfl, rfl, rfl⟩
  · obtain ⟨hops, hacc, -, hrfLen, htx, hrx⟩ := layOut_keeps s.spec.fields s.spec.frameLen.value.toNat s
    exact ⟨⟨hops.cfg, hops.cmd, hops.overrun, hops.arg0, hops.arg1, hops.spec⟩, hacc, hrfLen, htx, hrx⟩

/-- No command changes the parameters, CMD, OVERRUN, ARG0, ARG1 or a PacketSpec register (R31, R34, R95). -/
theorem exec_sameOperands {i : Instr} {s t : State} (h : exec i s = .next t) : s.SameOperands t := by
  cases i with
  | csum sp => rcases execCsum_eq_next h with ⟨-, rfl⟩ | ⟨-, _, -, rfl⟩ <;> constructor <;> rfl
  | wrapsum => cases execWrapsum_eq_next h; constructor <;> rfl
  | build => exact (execBuild_keeps h).1
  | send =>
    obtain ⟨hcfg, hcmd, hover, h0, h1, hspec⟩ := sendAttempt_sameOperands h
    exact ⟨hcfg, hcmd, hover, h0, h1, hspec⟩
  | recv =>
    obtain ⟨hcfg, hcmd, hover, h0, h1, hspec⟩ := recvAttempt_sameOperands h
    exact ⟨hcfg, hcmd, hover, h0, h1, hspec⟩
  | verify =>
    rcases execVerify_eq_next h with ⟨-, rfl⟩ | ⟨-, d, -, rfl⟩
    · constructor <;> rfl
    · exact reportComparison_sameOperands d s

theorem endPoll_sameOperands (s : State) : s.SameOperands (endPoll s) := by
  unfold endPoll
  split
  · rw [timeOut_eq]; constructor <;> rfl
  · constructor <;> rfl

/-- No step of the engine does either. -/
theorem engineStep_sameOperands {s t : State} (h : engineStep s = .next t) : s.SameOperands t := by
  rcases engineStep_eq_next h with ⟨-, rfl⟩ | ⟨-, ⟨_, -, hx⟩ | ⟨-, rfl⟩⟩ | ⟨-, hx⟩ | ⟨-, rfl⟩ | ⟨-, hx⟩ | ⟨-, rfl⟩
  · constructor <;> rfl
  · exact exec_sameOperands hx
  · constructor <;> rfl
  · exact sendAttempt_sameOperands hx
  · constructor <;> rfl
  · exact recvAttempt_sameOperands hx
  · exact endPoll_sameOperands s

/-- Settles O44: the engine, a host write and a reset all keep the parameters. -/
theorem parametersNeverChange : Obligations.ParametersNeverChange := by
  intro s t h
  exact step_keeps (P := fun u => u.cfg = s.cfg) (fun _ _ hu => hu)
    (fun _ _ hu he => (engineStep_sameOperands he).cfg.trans hu)
    (fun tgt v u hu => (writeTarget_rings tgt v u).1.trans hu) (fun _ hu => hu) rfl h

end Sys2Proof.Machine

/-! SUPPORT. The rings (R39, R174): every writer of a queue leaves it as a sync does. -/

namespace Sys2Proof.Machine

/-! ### The rings: one queue -/

/-- What a sync asks of a transmit queue: all of `TxQueue.inv` but HWCUR = HEAD and TAIL's range, which the sync itself sets (R177). -/
def TxQueue.syncable (p : Params) (t : TxQueue) : Prop :=
  t.cur = t.head ∧ t.head.toNat < p.numSlots ∧
  Table.wf p.numSlots t.slots ∧ ∀ c ∈ t.slots, Memory.wf p.slotBufSize c.2.buf

theorem TxQueue.syncable_of_inv {p : Params} {t : TxQueue} (h : t.inv p) : t.syncable p := by
  obtain ⟨hcur, -, hhead, -, hslots, hbufs⟩ := h
  exact ⟨hcur, hhead, hslots, hbufs⟩

/-- Transmit queue `t` of a block with parameters `p`, with the frame `d` filled into its slot at HEAD (R181, R182). -/
def TxQueue.filled (p : Params) (q : Nat) (t : TxQueue) (d : List Byte) : TxQueue :=
  { t with
    slots := Table.write t.slots t.head.toNat
      ((slotAt .tx q t.slots t.head.toNat).fill d (BitVec.ofNat 16 d.length) reportFlags)
    head := ringAdd p.numSlots t.head 1
    cur := ringAdd p.numSlots t.head 1 }

@[simp] theorem fillSlot_txq (q : Nat) (t : TxQueue) (d : List Byte) (s : State) :
    (fillSlot q t d s).txq = s.txq.set q (t.filled s.cfg q d) := rfl

/-- A queue filled with a frame that fits a slot buffer can be synced. -/
theorem TxQueue.syncable_filled {p : Params} (hp : p.legal) {t : TxQueue} (h : t.inv p) (q : Nat) {d : List Byte}
    (hd : d.length ≤ p.slotBufSize) : (t.filled p q d).syncable p := by
  obtain ⟨-, -, hn, -⟩ := hp
  obtain ⟨-, -, hhead, -, hslots, hbufs⟩ := h
  exact ⟨rfl, ringAdd_lt (by omega) hn.2 _ _, Table.wf_write hslots hhead _,
    wf_bufs_write hbufs (Slot.wf_fill (wf_slotAt hbufs _ _ _) hd _ _) _⟩

/-! ### The rings: all queues -/

/-- A sync leaves every transmit queue with its invariant. -/
theorem forall_inv_syncTxFrom {p : Params} (hp : p.legal) (q : Nat) (c : TxChoice) {l : List TxQueue}
    (hl : ∀ t ∈ l, t.syncable p) : ∀ t ∈ syncTxFrom p.numSlots q c l, t.inv p := by
  induction l generalizing q c with
  | nil => simp [syncTxFrom]
  | cons t l ih =>
    rw [List.forall_mem_cons] at hl
    rw [syncTxFrom, List.forall_mem_cons]
    exact ⟨TxQueue.inv_sync hp hl.1 q _, ih _ _ hl.2⟩

/-- A sync keeps every receive queue's invariant. -/
theorem forall_inv_syncRxFrom {p : Params} (hp : p.legal) (q : Nat) (c : RxChoice) {l : List RxQueue}
    (hl : ∀ r ∈ l, r.inv p) : ∀ r ∈ syncRxFrom p.numSlots p.slotBufSize q c l, r.inv p := by
  induction l generalizing q c with
  | nil => simp [syncRxFrom]
  | cons r l ih =>
    rw [List.forall_mem_cons] at hl
    rw [syncRxFrom, List.forall_mem_cons]
    exact ⟨RxQueue.inv_sync hp hl.1 q _, ih _ _ hl.2⟩

/-- What holds of a list's elements and of a new one holds after setting it. -/
theorem forall_mem_set {α : Type} {p : α → Prop} {l : List α} (hl : ∀ x ∈ l, p x) {a : α} (ha : p a) (i : Nat) :
    ∀ x ∈ l.set i a, p x := by
  intro x hx
  rcases List.mem_or_eq_of_mem_set hx with hx | rfl
  · exact hl x hx
  · exact ha

/-! ### The rings: the commands -/

/-- A state with the same parameters and the same queues has the same rings. -/
theorem State.ringsInv_of_same {s t : State} (h : s.ringsInv) (hc : t.cfg = s.cfg) (htx : t.txq = s.txq) (hrx : t.rxq = s.rxq) :
    t.ringsInv := by
  unfold State.ringsInv
  rw [hc, htx, hrx]
  exact h

/-- An attempt of SEND keeps the rings: HWCUR is HEAD again after the sync that follows the fill (R177, R181). -/
theorem sendAttempt_ringsInv {s t : State} (hs : s.ringsInv) (h : sendAttempt s = .next t) : t.ringsInv := by
  obtain ⟨hp, hntx, hnrx, htx, hrx⟩ := hs
  rcases sendAttempt_eq_next h with ⟨-, rfl⟩ | ⟨q, x, hf, ⟨-, rfl⟩ | ⟨hfit, d, hd, rfl⟩⟩
  · exact ⟨hp, (length_syncTxFrom _ _ _ _).trans hntx, hnrx,
      forall_inv_syncTxFrom hp _ _ fun y hy => TxQueue.syncable_of_inv (htx y hy), hrx⟩
  · exact ⟨hp, hntx, hnrx, htx, hrx⟩
  · have hlen : d.length ≤ s.cfg.slotBufSize := (readSpan_eq_ok.1 hd).1 ▸ hfit
    have hfilled : ∀ y ∈ s.txq.set q (x.filled s.cfg q d), y.syncable s.cfg :=
      forall_mem_set (fun y hy => TxQueue.syncable_of_inv (htx y hy))
        (TxQueue.syncable_filled hp (htx x (firstFree_mem hf)) q hlen) q
    exact ⟨hp, ((length_syncTxFrom _ _ _ _).trans List.length_set).trans hntx, hnrx, forall_inv_syncTxFrom hp _ _ hfilled, hrx⟩

/-- The drain leaves its cursor within the pending slots of its queue (R186). -/
theorem drainQueue_rcur {s : State} (hp : s.cfg.legal) (q : Nat) {r : RxQueue} (hr : r.inv s.cfg) :
    ∃ m ≤ r.pending s.cfg.numSlots, (drainQueue q r s).1.rcur = ringAdd s.cfg.numSlots r.head m :=
  drain_rcur hp q r.slots _ hr.2.1

/-- An attempt of RECV keeps the rings: the commit moves HEAD and CUR over pending slots (R189). -/
theorem recvAttempt_ringsInv {s t : State} (hs : s.ringsInv) (h : recvAttempt s = .next t) : t.ringsInv := by
  obtain ⟨hp, hntx, hnrx, htx, hrx⟩ := id hs
  rcases recvAttempt_eq_next h with ⟨-, rfl⟩ | ⟨q, r, hf, rfl⟩
  · exact ⟨hp, hntx, (length_syncRxFrom _ _ _ _ _).trans hnrx, htx, forall_inv_syncRxFrom hp _ _ hrx⟩
  · have hr : r.inv s.cfg := hrx r (firstPending_mem hf)
    cases hhow : (drainQueue q r s).2
    case whole =>
      obtain ⟨m, -, hm⟩ := drainQueue_rcur hp q hr
      have hset : ∀ y ∈ s.rxq.set q { r with head := (drainQueue q r s).1.rcur, cur := (drainQueue q r s).1.rcur },
          y.inv s.cfg := forall_mem_set hrx (hm ▸ RxQueue.inv_committed hp hr m) q
      rw [endDrain_whole]
      exact ⟨hp, hntx, ((length_syncRxFrom _ _ _ _ _).trans List.length_set).trans hnrx, htx,
        forall_inv_syncRxFrom hp _ _ hset⟩
    case cut => rw [endDrain_cut]; exact hs
    case slotTooLong => rw [endDrain_slotTooLong]; exact hs
    case frameTooLong => rw [endDrain_frameTooLong]; exact hs

theorem reportComparison_rings (d : Option Difference) (s : State) :
    (reportComparison d s).txq = s.txq ∧ (reportComparison d s).rxq = s.rxq := by
  cases d <;> exact ⟨rfl, rfl⟩

/-- Only SEND changes a transmit queue, and only RECV a receive queue (R79). -/
theorem exec_rings {i : Instr} {s t : State} (hsend : i ≠ .send) (hrecv : i ≠ .recv) (h : exec i s = .next t) :
    t.txq = s.txq ∧ t.rxq = s.rxq := by
  cases i with
  | csum sp => rcases execCsum_eq_next h with ⟨-, rfl⟩ | ⟨-, _, -, rfl⟩ <;> exact ⟨rfl, rfl⟩
  | wrapsum => cases execWrapsum_eq_next h; exact ⟨rfl, rfl⟩
  | build =>
    obtain ⟨-, -, -, htx, hrx⟩ := execBuild_keeps h
    exact ⟨htx, hrx⟩
  | send => exact absurd rfl hsend
  | recv => exact absurd rfl hrecv
  | verify =>
    rcases execVerify_eq_next h with ⟨-, rfl⟩ | ⟨-, d, -, rfl⟩
    · exact ⟨rfl, rfl⟩
    · exact reportComparison_rings d s

theorem exec_ringsInv {i : Instr} {s t : State} (hs : s.ringsInv) (h : exec i s = .next t) : t.ringsInv := by
  by_cases hsend : i = .send
  · subst hsend
    exact sendAttempt_ringsInv (s := { s with txRounds := 0 }) hs h
  by_cases hrecv : i = .recv
  · subst hrecv
    exact recvAttempt_ringsInv (s := s.recvFrom s.recvFirst 0) hs h
  obtain ⟨htx, hrx⟩ := exec_rings hsend hrecv h
  exact State.ringsInv_of_same hs (exec_sameOperands h).cfg htx hrx

theorem endPoll_rings (s : State) : (endPoll s).txq = s.txq ∧ (endPoll s).rxq = s.rxq := by
  unfold endPoll
  split
  · rw [timeOut_eq]; exact ⟨rfl, rfl⟩
  · exact ⟨rfl, rfl⟩

theorem engineStep_ringsInv {s t : State} (hs : s.ringsInv) (h : engineStep s = .next t) : t.ringsInv := by
  rcases engineStep_eq_next h with ⟨-, rfl⟩ | ⟨-, ⟨_, -, hx⟩ | ⟨-, rfl⟩⟩ | ⟨-, hx⟩ | ⟨-, rfl⟩ | ⟨-, hx⟩ | ⟨-, rfl⟩
  · exact hs
  · exact exec_ringsInv hs hx
  · exact hs
  · exact sendAttempt_ringsInv hs hx
  · exact hs
  · exact recvAttempt_ringsInv hs hx
  · exact State.ringsInv_of_same hs (endPoll_sameOperands s).cfg (endPoll_rings s).1 (endPoll_rings s).2

/-! ### The rings: reset -/

theorem TxQueue.inv_reset {p : Params} (hp : p.legal) : (TxQueue.reset p).inv p := by
  obtain ⟨-, -, hn, -⟩ := hp
  refine ⟨rfl, rfl, ?_, ?_, Table.wf_nil _, by simp [TxQueue.reset]⟩ <;> simp [TxQueue.reset] <;> omega

theorem RxQueue.inv_reset {p : Params} (hp : p.legal) : RxQueue.reset.inv p := by
  obtain ⟨-, -, hn, -⟩ := hp
  refine ⟨rfl, ?_, ?_, Table.wf_nil _, by simp [RxQueue.reset]⟩ <;> simp [RxQueue.reset] <;> omega

/-- The rings right after reset (R282). -/
theorem ringsInv_resetWith {p : Params} (hp : p.legal) (e : Env) : (State.resetWith p e).ringsInv := by
  refine ⟨hp, List.length_replicate, List.length_replicate, fun t ht => ?_, fun r hr => ?_⟩
  · rw [List.eq_of_mem_replicate ht]
    exact TxQueue.inv_reset hp
  · rw [List.eq_of_mem_replicate hr]
    exact RxQueue.inv_reset hp

/-- Settles O55: SEND and RECV are the only writers of a queue; each leaves every queue as a sync does. -/
theorem stepKeepsTheRings : Obligations.StepKeepsTheRings := by
  intro s t hs h
  refine step_keeps (P := State.ringsInv) (fun _ _ hu => hu) (fun _ _ hu he => engineStep_ringsInv hu he) ?_
    (fun u hu => ringsInv_resetWith hu.1 u.env) hs h
  intro tgt v u hu
  obtain ⟨hc, htx, hrx⟩ := writeTarget_rings tgt v u
  exact State.ringsInv_of_same hu hc htx hrx

end Sys2Proof.Machine

/-! SUPPORT. The recorded fault (R43), the operand registers (R34) and the lengths (R37) under every command. -/

namespace Sys2Proof.Machine

/-! ### The recorded fault and ACC -/

/-- The marks of the registers that command `i` reads from `s` are all set: CSUM reads ACC only for a span in range (R112), BUILD the
nine other PacketSpec registers only for a legal length (R140). -/
def State.readMarks (s : State) (i : Instr) : Bool :=
  match i with
  | .csum _ =>
    if 65536 < s.arg0.value.toNat + s.arg1.value.toNat then s.arg0.written && s.arg1.written
    else s.arg0.written && s.arg1.written && s.acc.written
  | .wrapsum => s.acc.written
  | .build =>
    if s.spec.frameLen.value.toNat < 42 ∨ 65536 < s.spec.frameLen.value.toNat then s.spec.frameLen.written else s.spec.marked
  | .send => true
  | .recv => s.arg0.written
  | .verify => true

/-- CSUM reads all three of its registers where its span is in range (R112). -/
theorem State.readMarks_csum_of_le {s : State} {sp : Space} (h : s.arg0.value.toNat + s.arg1.value.toNat ≤ 65536) :
    s.readMarks (.csum sp) = (s.arg0.written && s.arg1.written && s.acc.written) := if_neg (by omega)

/-- BUILD reads all ten PacketSpec registers where the length is legal (R140). -/
theorem State.readMarks_build_of_legal {s : State} (h1 : 42 ≤ s.spec.frameLen.value.toNat)
    (h2 : s.spec.frameLen.value.toNat ≤ 65536) : s.readMarks .build = s.spec.marked := if_neg (by omega)

theorem PacketSpec.frameLen_written_of_marked {p : PacketSpec} (h : p.marked = true) : p.frameLen.written = true := by
  unfold PacketSpec.marked at h
  exact (Bool.and_eq_true_iff.1 h).2

theorem sendAttempt_faulted {s t : State} (h : sendAttempt s = .next t) : t.faulted = s.faulted := by
  rcases sendAttempt_eq_next h with ⟨-, rfl⟩ | ⟨_, _, -, ⟨-, rfl⟩ | ⟨-, _, -, rfl⟩⟩ <;> rfl

theorem recvAttempt_faulted {s t : State} (h : recvAttempt s = .next t) : t.faulted = s.faulted := by
  obtain ⟨u, hu, hf⟩ := recvAttempt_goes_on s
  rw [h] at hu
  cases hu
  exact hf

theorem execVerify_faulted {s t : State} (h : execVerify s = .next t) : t.faulted = s.faulted := by
  rcases execVerify_eq_next h with ⟨-, rfl⟩ | ⟨-, d, -, rfl⟩
  · rfl
  · cases d <;> rfl

/-- A command records a fault exactly when a register it reads is unwritten, and clears none (R43). -/
theorem exec_faulted {i : Instr} {s t : State} (h : exec i s = .next t) : t.faulted = (s.faulted || !s.readMarks i) := by
  cases i with
  | csum sp =>
    rcases execCsum_eq_next h with ⟨hlt, rfl⟩ | ⟨hle, _, -, rfl⟩
    · rw [State.readMarks, if_pos hlt]
    · rw [State.readMarks_csum_of_le hle]
  | wrapsum => cases execWrapsum_eq_next h; rfl
  | build =>
    rcases execBuild_eq_next h with ⟨hl, rfl⟩ | ⟨h1, h2, rfl⟩
    · rw [State.readMarks, if_pos hl]
    · rw [State.readMarks_build_of_legal h1 h2]
  | send => rw [State.readMarks, Bool.not_true, Bool.or_false]; exact sendAttempt_faulted (s := { s with txRounds := 0 }) h
  | recv => exact recvAttempt_faulted h
  | verify => rw [State.readMarks, Bool.not_true, Bool.or_false]; exact execVerify_faulted h

/-- With every operand register written a command reads no unwritten one. -/
theorem State.readMarks_of_written {s : State} (h0 : s.arg0.written = true) (h1 : s.arg1.written = true)
    (ha : s.acc.written = true) (hp : s.spec.marked = true) (i : Instr) : s.readMarks i = true := by
  cases i <;> simp [State.readMarks, h0, h1, ha, hp, PacketSpec.frameLen_written_of_marked hp]

theorem sendAttempt_acc {s t : State} (h : sendAttempt s = .next t) : t.acc = s.acc := by
  rcases sendAttempt_eq_next h with ⟨-, rfl⟩ | ⟨_, _, -, ⟨-, rfl⟩ | ⟨-, _, -, rfl⟩⟩ <;> rfl

/-- However a drain ends, it leaves ACC and FM_LEN alone, keeps the length it has reached, and clears no FATAL. -/
theorem endDrain_keeps (q : Nat) (r : RxQueue) (d : Drain) (how : DrainEnd) (s : State) :
    (endDrain q r d how s).acc = s.acc ∧ (endDrain q r d how s).fmLen = s.fmLen ∧ (endDrain q r d how s).rfLen = d.rfLen ∧
    ((endDrain q r d how s).fatal = false → s.fatal = false) := by
  cases how
  case whole => rw [endDrain_whole]; exact ⟨rfl, rfl, rfl, id⟩
  case cut => rw [endDrain_cut]; exact ⟨rfl, rfl, rfl, fun h => (Bool.or_eq_false_iff.1 h).2⟩
  case slotTooLong => rw [endDrain_slotTooLong]; exact ⟨rfl, rfl, rfl, fun h => (Bool.or_eq_false_iff.1 h).2⟩
  case frameTooLong => rw [endDrain_frameTooLong]; exact ⟨rfl, rfl, rfl, fun h => (Bool.or_eq_false_iff.1 h).2⟩

theorem recvAttempt_acc {s t : State} (h : recvAttempt s = .next t) : t.acc = s.acc := by
  rcases recvAttempt_eq_next h with ⟨-, rfl⟩ | ⟨q, r, -, rfl⟩
  · rfl
  · exact (endDrain_keeps q r _ _ s).1

/-- No command but CSUM writes ACC (R34). -/
theorem exec_acc {i : Instr} {s t : State} (hi : ∀ sp, i ≠ .csum sp) (h : exec i s = .next t) : t.acc = s.acc := by
  cases i with
  | csum sp => exact absurd rfl (hi sp)
  | wrapsum => cases execWrapsum_eq_next h; rfl
  | build =>
    obtain ⟨-, hacc, -, -, -⟩ := execBuild_keeps h
    exact hacc
  | send => exact sendAttempt_acc (s := { s with txRounds := 0 }) h
  | recv => exact recvAttempt_acc (s := s.recvFrom s.recvFirst 0) h
  | verify =>
    rcases execVerify_eq_next h with ⟨-, rfl⟩ | ⟨-, d, -, rfl⟩
    · rfl
    · cases d <;> rfl

/-- Settles O43, from what every command keeps and the marks it reads. -/
theorem commandsKeepTheOperandRegisters : Obligations.CommandsKeepTheOperandRegisters := by
  intro i s t h
  obtain ⟨-, hcmd, hover, h0, h1, hspec⟩ := exec_sameOperands h
  refine ⟨h0, h1, hspec, hcmd, hover, fun hi => exec_acc hi h, fun hf => ?_, fun m0 m1 ma mp => ?_⟩
  · rw [exec_faulted h, hf, Bool.true_or]
  · rw [exec_faulted h, State.readMarks_of_written m0 m1 ma mp, Bool.not_true, Bool.or_false]

/-! ### The lengths (R37, R185) -/

/-- Once the engine is idle, RECV's part of the lengths' invariant says nothing. -/
theorem State.lengthsInv_of_idle {t : State} (he : t.engine = .idle) (hfm : t.fatal = false → t.fmLen.toNat ≤ 65536)
    (hrf : t.rfLen.toNat ≤ 65536) : t.lengthsInv := ⟨hfm, hrf, by simp [he]⟩

theorem execBuild_lengthsInv {s t : State} (hs : s.lengthsInv) (h : execBuild s = .next t) : t.lengthsInv := by
  obtain ⟨hfm, hrf, -⟩ := hs
  obtain ⟨-, -, hrfLen, -, -⟩ := execBuild_keeps h
  rw [← hrfLen] at hrf
  rcases execBuild_eq_next h with ⟨-, rfl⟩ | ⟨-, hle, rfl⟩
  · refine State.lengthsInv_of_idle rfl (fun hf => ?_) hrf
    obtain ⟨hw, hf⟩ := Bool.or_eq_false_iff.1 hf
    simpa [hw] using hfm hf
  · exact State.lengthsInv_of_idle rfl (fun _ => by simpa [layOut] using hle) hrf

theorem sendAttempt_lengthsInv {s t : State} (hs : s.lengthsInv) (h : sendAttempt s = .next t) : t.lengthsInv := by
  obtain ⟨hfm, hrf, -⟩ := hs
  rcases sendAttempt_eq_next h with ⟨-, rfl⟩ | ⟨_, _, -, ⟨-, rfl⟩ | ⟨-, _, -, rfl⟩⟩
  · exact ⟨hfm, hrf, by simp⟩
  · exact State.lengthsInv_of_idle rfl (by simp) hrf
  · exact State.lengthsInv_of_idle rfl (by simpa using hfm) (by simpa using hrf)

/-- A drain from a legal RF_LEN ends with a legal one, whatever the slots hold (R187, check 2). -/
theorem drain_rfLen_le (cfg : Params) (q : Nat) (slots : Table Slot) (avail : Nat) {d : Drain} (h : d.rfLen.toNat ≤ 65536) :
    (drain cfg q slots avail d).1.rfLen.toNat ≤ 65536 := by
  refine drain_induction (P := fun x => x.rfLen.toNat ≤ 65536) (fun x _ _ hfit => ?_) avail d h
  simp only [Drain.append, BitVec.toNat_ofNat]
  omega

/-- An attempt of RECV starts with RF_LEN 0 and leaves it so unless it drains a queue (R185, R186). -/
theorem recvAttempt_lengthsInv {s t : State} (hs : s.lengthsInv) (h0 : s.rfLen = 0) (h : recvAttempt s = .next t) :
    t.lengthsInv := by
  obtain ⟨hfm, hrf, -⟩ := hs
  rcases recvAttempt_eq_next h with ⟨-, rfl⟩ | ⟨q, r, -, rfl⟩
  · exact ⟨hfm, hrf, fun _ => h0⟩
  · obtain ⟨-, hfmLen, hrfLen, hfatal⟩ := endDrain_keeps q r (drainQueue q r s).1 (drainQueue q r s).2 s
    refine State.lengthsInv_of_idle (endDrain_finished _ _ _ _ _).1 (fun hf => hfmLen ▸ hfm (hfatal hf)) ?_
    rw [hrfLen]
    exact drain_rfLen_le _ _ _ _ hrf

theorem exec_lengthsInv {i : Instr} {s t : State} (hs : s.lengthsInv) (h : exec i s = .next t) : t.lengthsInv := by
  obtain ⟨hfm, hrf, -⟩ := id hs
  cases i with
  | csum sp => rcases execCsum_eq_next h with ⟨-, rfl⟩ | ⟨-, _, -, rfl⟩ <;> exact State.lengthsInv_of_idle rfl hfm hrf
  | wrapsum => cases execWrapsum_eq_next h; exact State.lengthsInv_of_idle rfl hfm hrf
  | build => exact execBuild_lengthsInv hs h
  | send => exact sendAttempt_lengthsInv (s := { s with txRounds := 0 }) hs h
  | recv => exact recvAttempt_lengthsInv (s := s.recvFrom s.recvFirst 0) ⟨hfm, by simp, fun _ => rfl⟩ rfl h
  | verify =>
    rcases execVerify_eq_next h with ⟨-, rfl⟩ | ⟨-, d, -, rfl⟩
    · exact State.lengthsInv_of_idle rfl hfm hrf
    · cases d <;> exact State.lengthsInv_of_idle rfl hfm hrf

theorem endPoll_lengthsInv {s : State} (hs : s.lengthsInv) (h0 : s.rfLen = 0) : (endPoll s).lengthsInv := by
  obtain ⟨hfm, hrf, -⟩ := hs
  unfold endPoll
  split
  · rw [timeOut_eq]
    exact State.lengthsInv_of_idle rfl hfm hrf
  · exact ⟨hfm, hrf, fun _ => h0⟩

theorem engineStep_lengthsInv {s t : State} (hs : s.lengthsInv) (h : engineStep s = .next t) : t.lengthsInv := by
  obtain ⟨hfm, hrf, h0⟩ := id hs
  rcases engineStep_eq_next h with ⟨-, rfl⟩ | ⟨-, ⟨_, -, hx⟩ | ⟨-, rfl⟩⟩ | ⟨-, hx⟩ | ⟨-, rfl⟩ | ⟨he, hx⟩ | ⟨he, rfl⟩
  · exact hs
  · exact exec_lengthsInv hs hx
  · exact State.lengthsInv_of_idle rfl hfm hrf
  · exact sendAttempt_lengthsInv hs hx
  · exact ⟨hfm, hrf, by simp⟩
  · exact recvAttempt_lengthsInv hs (h0 (.inl he)) hx
  · exact endPoll_lengthsInv hs (h0 (.inr he))

theorem writeTarget_lengthsInv (tgt : Target) (v : Word) {s : State} (hs : s.lengthsInv) : (writeTarget tgt v s).lengthsInv := by
  obtain ⟨hfm, hrf, -⟩ := id hs
  rcases writeTarget_cases tgt v s with h | ⟨-, h⟩ | ⟨-, h⟩ | ⟨ha, _, _, _, _, fl, rl, h, hfl, hrl⟩ | ⟨-, sp, _, -, h⟩ <;> rw [h]
  · exact hs
  · exact hs
  · rcases issue_cases v s with ⟨_, -, h⟩ | ⟨_, -, h⟩ <;> rw [h]
    · exact ⟨hfm, hrf, by simp⟩
    · exact State.lengthsInv_of_idle rfl hfm hrf
  · obtain ⟨he, -⟩ := State.accepting_eq_true.1 ha
    refine State.lengthsInv_of_idle he (fun hf => ?_) ?_
    · rcases hfl with rfl | hfl
      · exact hfm hf
      · exact hfl
    · rcases hrl with rfl | hrl
      · exact hrf
      · exact hrl
  · cases sp <;> exact hs

/-- Settles O56: every length stored has passed its check (R37, R140, R187), and RF_LEN stays 0 from RECV's start to its drain. -/
theorem stepKeepsTheLengthsLegal : Obligations.StepKeepsTheLengthsLegal := by
  intro s t hs h
  exact step_keeps (P := State.lengthsInv) (fun _ _ hu => hu) (fun _ _ hu he => engineStep_lengthsInv hu he)
    (fun tgt v _ hu => writeTarget_lengthsInv tgt v hu)
    (fun _ _ => State.lengthsInv_of_idle rfl (by simp [resetBlock, State.resetWith]) (by simp [resetBlock, State.resetWith])) hs h

end Sys2Proof.Machine

/-! SUPPORT. STATUS under every step (R24, R32, R243). -/

namespace Sys2Proof.Machine

/-! ### STATUS (R24, R32, R243) -/

/-- An idle engine's STATUS is consistent once FATAL goes with its code. -/
theorem State.statusInv_of_idle {t : State} (he : t.engine = .idle) (hf : t.fatal = t.code.isFatal) : t.statusInv :=
  ⟨fun _ => he, fun h => absurd he h, hf, by rw [State.engineInv, he]⟩

/-- What STATUS shows while command `i` runs: no code yet, so not DONE and not halted (R241). -/
structure State.Running (s : State) (i : Instr) : Prop where
  done : s.done = false
  code : s.code = .ok
  fatal : s.fatal = false
  decoded : decode s.cmd = .ok i

/-- A busy engine with consistent STATUS is running the command in CMD. -/
theorem State.running_of_statusInv {s : State} (hs : s.statusInv) (he : s.engine ≠ .idle) {i : Instr}
    (hd : decode s.cmd = .ok i) : s.Running i := by
  obtain ⟨-, hbusy, hfatal, -⟩ := hs
  obtain ⟨hdone, hcode⟩ := hbusy he
  exact ⟨hdone, hcode, by rw [hfatal, hcode]; rfl, hd⟩

/-- A command in the middle of its work shows what it showed before. -/
theorem State.Running.statusInv {t : State} {i : Instr} (h : t.Running i) (he : t.engineInv = true) : t.statusInv :=
  ⟨fun hf => absurd hf (by simp [h.fatal]), fun _ => ⟨h.done, h.code⟩, by rw [h.fatal, h.code]; rfl, he⟩

/-- A command that ends with code `c`, or, its report withheld, with none (R248), in an engine that is not halted. -/
theorem State.Running.statusInv_finished {s t : State} {i : Instr} (h : s.Running i) (marked : Bool) {c : StatusCode}
    (hc : c.isFatal = false) (he : t.engine = .idle) (hf : t.fatal = s.fatal) (hcode : t.code = if marked then c else s.code) :
    t.statusInv := by
  refine State.statusInv_of_idle he ?_
  rw [hf, hcode, h.fatal, h.code]
  cases marked
  · rfl
  · exact hc.symm

/-- A command that halts with the fatal code `c`, or, its report withheld, ends with none (R243, R248). -/
theorem State.Running.statusInv_halted {s t : State} {i : Instr} (h : s.Running i) (marked : Bool) {c : StatusCode}
    (hc : c.isFatal = true) (he : t.engine = .idle) (hf : t.fatal = (marked || s.fatal))
    (hcode : t.code = if marked then c else s.code) : t.statusInv := by
  refine State.statusInv_of_idle he ?_
  rw [hf, hcode, h.fatal, h.code]
  cases marked
  · rfl
  · exact hc.symm

theorem endDrain_statusInv (q : Nat) (r : RxQueue) (d : Drain) (how : DrainEnd) {s : State} {i : Instr} (h : s.Running i) :
    (endDrain q r d how s).statusInv := by
  cases how
  case whole => rw [endDrain_whole]; exact h.statusInv_finished _ (c := .ok) rfl rfl rfl rfl
  case cut => rw [endDrain_cut]; exact h.statusInv_halted _ (c := .rxPartialFrame) rfl rfl rfl rfl
  case slotTooLong => rw [endDrain_slotTooLong]; exact h.statusInv_halted _ (c := .oversizedFrame) rfl rfl rfl rfl
  case frameTooLong => rw [endDrain_frameTooLong]; exact h.statusInv_halted _ (c := .oversizedFrame) rfl rfl rfl rfl

theorem sendAttempt_statusInv {s t : State} (hs : s.Running .send) (h : sendAttempt s = .next t) : t.statusInv := by
  rcases sendAttempt_eq_next h with ⟨-, rfl⟩ | ⟨_, _, -, ⟨-, rfl⟩ | ⟨-, _, -, rfl⟩⟩
  · have hsleep : State.Running { syncTx s with engine := .sendSleep } .send := ⟨hs.done, hs.code, hs.fatal, hs.decoded⟩
    exact hsleep.statusInv (by simp [State.engineInv, hs.decoded, Except.toOption])
  · exact State.statusInv_of_idle rfl rfl
  · exact hs.statusInv_finished true (c := .ok) rfl rfl rfl rfl

theorem recvAttempt_statusInv {s t : State} (hs : s.Running .recv) (h : recvAttempt s = .next t) : t.statusInv := by
  rcases recvAttempt_eq_next h with ⟨-, rfl⟩ | ⟨q, r, -, rfl⟩
  · have hsleep : State.Running { syncRx s with engine := .recvSleep } .recv := ⟨hs.done, hs.code, hs.fatal, hs.decoded⟩
    exact hsleep.statusInv (by simp [State.engineInv, hs.decoded, Except.toOption])
  · exact endDrain_statusInv _ _ _ _ hs

theorem reportComparison_statusInv (d : Option Difference) {s : State} {i : Instr} (hs : s.Running i) :
    (reportComparison d s).statusInv := by
  cases d with
  | none => exact hs.statusInv_finished true (c := .ok) rfl rfl rfl rfl
  | some d => exact hs.statusInv_finished true (c := .contentMismatch) rfl rfl rfl rfl

theorem exec_statusInv {i : Instr} {s t : State} (hs : s.Running i) (h : exec i s = .next t) : t.statusInv := by
  cases i with
  | csum sp =>
    rcases execCsum_eq_next h with ⟨-, rfl⟩ | ⟨-, _, -, rfl⟩
    · exact hs.statusInv_finished _ (c := .badOperand) rfl rfl rfl rfl
    · exact hs.statusInv_finished _ (c := .ok) rfl rfl rfl rfl
  | wrapsum => cases execWrapsum_eq_next h; exact hs.statusInv_finished _ (c := .ok) rfl rfl rfl rfl
  | build =>
    obtain ⟨-, -, hfatal, -, -, -⟩ := layOut_keeps s.spec.fields s.spec.frameLen.value.toNat s
    rcases execBuild_eq_next h with ⟨-, rfl⟩ | ⟨-, -, rfl⟩
    · exact hs.statusInv_halted _ (c := .layoutOverflow) rfl rfl rfl rfl
    · exact hs.statusInv_finished _ (c := .ok) rfl rfl hfatal rfl
  | send => exact sendAttempt_statusInv (s := { s with txRounds := 0 }) ⟨hs.done, hs.code, hs.fatal, hs.decoded⟩ h
  | recv => exact recvAttempt_statusInv (s := s.recvFrom s.recvFirst 0) ⟨hs.done, hs.code, hs.fatal, hs.decoded⟩ h
  | verify =>
    rcases execVerify_eq_next h with ⟨-, rfl⟩ | ⟨-, d, -, rfl⟩
    · exact hs.statusInv_finished true (c := .lengthMismatch) rfl rfl rfl rfl
    · exact reportComparison_statusInv d hs

theorem endPoll_statusInv {s : State} (hs : s.Running .recv) : (endPoll s).statusInv := by
  unfold endPoll
  split
  · rw [timeOut_eq]
    exact hs.statusInv_finished _ (c := .timeout) rfl rfl rfl rfl
  · have hloop : State.Running { countPoll s with engine := .recvLoop } .recv := ⟨hs.done, hs.code, hs.fatal, hs.decoded⟩
    exact hloop.statusInv (by simp [State.engineInv, hs.decoded, Except.toOption])

theorem endBackoff_statusInv {s : State} (hs : s.Running .send) : (endBackoff s).statusInv := by
  have hloop : State.Running (endBackoff s) .send := ⟨hs.done, hs.code, hs.fatal, hs.decoded⟩
  exact hloop.statusInv (by simp [State.engineInv, hs.decoded, Except.toOption])

theorem decode_eq_ok_of_toOption {w : Word} {i : Instr} (h : (decode w).toOption = some i) : decode w = .ok i := by
  cases hd : decode w with
  | ok j => simpa [hd, Except.toOption] using h
  | error e => simp [hd, Except.toOption] at h

/-- Between SEND's passes the command in CMD is SEND, between RECV's it is RECV. -/
theorem State.decode_of_engineInv {s : State} (h : s.engineInv = true) :
    (s.engine = .sendLoop ∨ s.engine = .sendSleep → decode s.cmd = .ok .send) ∧
    (s.engine = .recvLoop ∨ s.engine = .recvSleep → decode s.cmd = .ok .recv) := by
  unfold State.engineInv at h
  constructor
  · rintro (he | he) <;> rw [he] at h <;> exact decode_eq_ok_of_toOption (of_decide_eq_true h)
  · rintro (he | he) <;> rw [he] at h <;> exact decode_eq_ok_of_toOption (of_decide_eq_true h)

theorem engineStep_statusInv {s t : State} (hs : s.statusInv) (h : engineStep s = .next t) : t.statusInv := by
  obtain ⟨-, hbusy, hfatal, hengine⟩ := id hs
  obtain ⟨hsend, hrecv⟩ := State.decode_of_engineInv hengine
  rcases engineStep_eq_next h with ⟨-, rfl⟩ | ⟨he, ⟨_, hd, hx⟩ | ⟨-, rfl⟩⟩ | ⟨he, hx⟩ | ⟨he, rfl⟩ | ⟨he, hx⟩ | ⟨he, rfl⟩
  · exact hs
  · exact exec_statusInv (State.running_of_statusInv hs (by simp [he]) hd) hx
  · refine State.statusInv_of_idle rfl ?_
    rw [finish_fatal, hfatal, (hbusy (by simp [he])).2]
    rfl
  · exact sendAttempt_statusInv (State.running_of_statusInv hs (by simp [he]) (hsend (.inl he))) hx
  · exact endBackoff_statusInv (State.running_of_statusInv hs (by simp [he]) (hsend (.inr he)))
  · exact recvAttempt_statusInv (State.running_of_statusInv hs (by simp [he]) (hrecv (.inl he))) hx
  · exact endPoll_statusInv (State.running_of_statusInv hs (by simp [he]) (hrecv (.inr he)))

/-- An accepted command word leaves STATUS consistent, whether it is legal or not (R241, R246). -/
theorem issue_statusInv (w : Word) {s : State} (hf : s.fatal = false) : (issue w s).statusInv := by
  rcases issue_cases w s with ⟨i, hd, h⟩ | ⟨_, -, h⟩ <;> rw [h]
  · have hrun : (accept w s).Running i := ⟨rfl, rfl, hf, hd⟩
    exact hrun.statusInv (by simp [State.engineInv, hd, Except.toBool])
  · exact State.statusInv_of_idle rfl hf

theorem writeTarget_statusInv (tgt : Target) (v : Word) {s : State} (hs : s.statusInv) : (writeTarget tgt v s).statusInv := by
  rcases writeTarget_cases tgt v s with h | ⟨-, h⟩ | ⟨ha, h⟩ | ⟨-, _, _, _, _, _, _, h, -⟩ | ⟨-, sp, _, -, h⟩ <;> rw [h]
  · exact hs
  · exact hs
  · exact issue_statusInv v (State.accepting_eq_true.1 ha).2
  · exact hs
  · cases sp <;> exact hs

/-- Settles O57: a running command shows no code, and every end sets FATAL as its code says. -/
theorem stepKeepsStatusConsistent : Obligations.StepKeepsStatusConsistent := by
  intro s t hs h
  exact step_keeps (P := State.statusInv) (fun _ _ hu => hu) (fun _ _ hu he => engineStep_statusInv hu he)
    (fun tgt v _ hu => writeTarget_statusInv tgt v hu) (fun _ _ => State.statusInv_of_idle rfl rfl) hs h

end Sys2Proof.Machine

/-! SUPPORT. The host's accesses to registers, acceptance, and STATUS as the host reads it (R30 to R32, R40, R41). -/

namespace Sys2Proof.Machine

/-! ### The host's accesses -/

/-- An aligned 32-bit access to the window reaches the register at its offset (R66). -/
theorem target_register {a : HostAddr} (h1 : a.toNat < 0x1000) (h2 : a.toNat % 4 = 0) :
    target 32 a = some (.register a.toNat) := by
  rw [target, if_pos h1, if_pos ⟨rfl, h2⟩]

/-- The host's write of a register. -/
theorem step_of_write {s : State} {a : HostAddr} {v : Word} {rest : List HostOp} (h : s.env.host = .write 32 a v :: rest)
    (h1 : a.toNat < 0x1000) (h2 : a.toNat % 4 = 0) :
    step s = .next (writeReg (regAt a.toNat) v (s.performed (.write 32 a v) rest)) := by
  rw [step, machineStep, h]
  simp only [hostStep, hostWrite, target_register h1 h2, writeTarget]

/-- The host's read of a register. -/
theorem step_of_read {s : State} {a : HostAddr} {rest : List HostOp} (h : s.env.host = .read 32 a :: rest)
    (h1 : a.toNat < 0x1000) (h2 : a.toNat % 4 = 0) :
    ∃ t, step s = .next t ∧ t.env.readData = readReg (regAt a.toNat) (s.performed (.read 32 a) rest) := by
  rw [step, machineStep, h]
  simp only [hostStep, hostRead, target_register h1 h2, readTarget]
  exact ⟨_, rfl, rfl⟩

/-- A `pass` leaves the step to the engine (log 1). -/
theorem step_of_pass {s : State} {rest : List HostOp} (h : s.env.host = .pass :: rest) :
    step s = engineStep (s.withStream rest) := by
  rw [step, machineStep, h]
  rfl

/-! ### Acceptance and the step after it -/

/-- Settles O4: the write reaches CMD, and `issue` accepts the word. -/
theorem legalCmdWriteStartsTheCommand : Obligations.LegalCmdWriteStartsTheCommand := by
  intro s w i rest he hf hd hh
  have ha : (s.performed (.write 32 0 w) rest).accepting = true := State.accepting_eq_true.2 ⟨he, hf⟩
  rw [step_of_write hh (by decide) (by decide)]
  change Host.Outcome.next (guardWrite _ (issue w _)) = _
  rw [guardWrite_of_accepting ha, issue, hd]
  rfl

/-- Settles O6, one case for each way the host leaves the step to the engine. -/
theorem stepRunsTheAcceptedCommand : Obligations.StepRunsTheAcceptedCommand := by
  intro s i he hd
  refine ⟨fun hh => ?_, fun rest hh => ?_, fun rest hh => ?_⟩
  · rw [step_of_empty_stream hh, engineStep_of_start he hd]
  · rw [step_of_hostWaits (.inr (by rw [hh]; rfl)) (by simp [he]), engineStep_of_start he hd]
  · rw [step_of_pass hh, engineStep_of_start (s := s.withStream rest) he hd]
    rfl

/-! ### The register map (R30) -/

/-- From 0x070 on the map holds queue pointers and reserved offsets only (R30). -/
theorem regAt_of_le {o : Nat} (h : 0x070 ≤ o) : regAt o = queueReg o := by
  have hlow : ∀ x ∈ namedRegs, x.1 < 0x070 := by decide
  have hnone : namedRegs.lookup o = none := by
    rw [List.lookup_eq_none_iff]
    intro x hx
    have := hlow x hx
    exact bne_iff_ne.2 (by omega)
  rw [regAt, hnone]

/-- A write of a queue pointer or a reserved offset is ignored (R40, R41). -/
theorem writeReg_queueReg (o : Nat) (v : Word) (s : State) : writeReg (queueReg o) v s = s := by
  unfold queueReg
  repeat' split
  all_goals rfl

/-- A write of a named register that is not CMD or RW is ignored (R40, R41). -/
theorem writeReg_readOnly (v : Word) (s : State) :
    ∀ o ∈ [0x004, 0x014, 0x018, 0x01C, 0x050, 0x054, 0x058, 0x05C, 0x060, 0x064, 0x068, 0x06C], writeReg (regAt o) v s = s := by
  simp only [List.forall_mem_cons, List.not_mem_nil, false_implies, implies_true, and_true]
  exact ⟨rfl, rfl, rfl, rfl, rfl, rfl, rfl, rfl, rfl, rfl, rfl, rfl⟩

/-- Settles O48: below 0x070 by the list of read-only registers, above it by the map of the queues. -/
theorem writesToReadOnlyOffsetsAreIgnored : Obligations.WritesToReadOnlyOffsetsAreIgnored := by
  intro s a v rest hh h1 h2 hro
  rw [step_of_write hh h1 h2]
  congr 1
  by_cases h : 0x070 ≤ a.toNat
  · rw [regAt_of_le h]
    exact writeReg_queueReg _ _ _
  · refine writeReg_readOnly v _ a.toNat ?_
    simp only [List.mem_cons, List.not_mem_nil, or_false]
    omega

/-! ### STATUS as the host reads it (R32) -/

theorem Phase.number_lt (p : Phase) : p.number < 4 := by cases p <;> decide

theorem StatusCode.number_lt (c : StatusCode) : c.number < 0x12 := by cases c <;> decide

/-- The number STATUS reads as: its fields, each in its place. -/
theorem toNat_statusWord (s : State) :
    (statusWord s).toNat = s.busy.toNat + 2 * s.done.toNat + 4 * s.fatal.toNat + 8 * s.overrun.toNat
      + 16 * s.engine.phase.number + 256 * s.code.number := by
  have h1 := s.busy.toNat_le
  have h2 := s.done.toNat_le
  have h3 := s.fatal.toNat_le
  have h4 := s.overrun.toNat_le
  have h5 := s.engine.phase.number_lt
  have h6 := s.code.number_lt
  rw [statusWord, BitVec.toNat_ofNat]
  exact Nat.mod_eq_of_lt (by omega)

/-- A bit of a word, from the word's number. -/
theorem getLsbD_eq_of_div_mod {w : Word} {i : Nat} {b : Bool} (h : w.toNat / 2 ^ i % 2 = b.toNat) : w.getLsbD i = b := by
  rw [BitVec.getLsbD, Nat.testBit_eq_decide_div_mod_eq, h]
  cases b <;> rfl

/-- The bits and fields of STATUS (R32). -/
theorem statusWord_fields (s : State) :
    (statusWord s).getLsbD 0 = s.busy ∧ (statusWord s).getLsbD 1 = s.done ∧ (statusWord s).getLsbD 2 = s.fatal ∧
    (statusWord s).getLsbD 3 = s.overrun ∧ ((statusWord s).extractLsb' 4 4).toNat = s.engine.phase.number ∧
    ((statusWord s).extractLsb' 8 8).toNat = s.code.number ∧ (statusWord s).extractLsb' 16 16 = 0 := by
  have h := toNat_statusWord s
  have h1 := s.busy.toNat_le
  have h2 := s.done.toNat_le
  have h3 := s.fatal.toNat_le
  have h4 := s.overrun.toNat_le
  have h5 := s.engine.phase.number_lt
  have h6 := s.code.number_lt
  refine ⟨getLsbD_eq_of_div_mod ?_, getLsbD_eq_of_div_mod ?_, getLsbD_eq_of_div_mod ?_, getLsbD_eq_of_div_mod ?_, ?_, ?_,
    BitVec.eq_of_toNat_eq ?_⟩ <;>
    simp only [BitVec.extractLsb'_toNat, Nat.shiftRight_eq_div_pow, BitVec.ofNat_eq_ofNat, BitVec.toNat_ofNat, h] <;> omega

/-- Settles O53: a read of STATUS answers `statusWord` in every phase. -/
theorem statusReadsItsFieldsAtAnyTime : Obligations.StatusReadsItsFieldsAtAnyTime := by
  intro s rest hh
  obtain ⟨t, ht, hread⟩ := step_of_read hh (by decide) (by decide)
  obtain ⟨hbusy, hdone, hfatal, hoverrun, hphase, hcode, hhigh⟩ := statusWord_fields s
  have hr : t.env.readData = statusWord s := hread
  refine ⟨t, ht, ?_, ?_, ?_, ?_, ?_, ?_, ?_⟩ <;> rw [hr]
  · rw [hbusy, State.busy, decide_eq_true_iff]
  · exact hdone
  · exact hfatal
  · exact hoverrun
  · rw [hphase]
    simp +contextual [Engine.phase, Phase.number]
  · rw [hcode]
    simp +contextual [StatusCode.number]
  · exact hhigh

end Sys2Proof.Machine

/-! SUPPORT. The RW registers: a write and the read of the same register (R30, R33, R37). -/

namespace Sys2Proof.Machine

/-! ### The RW registers as the host writes and reads them (R30, R33, R37) -/

/-- The low `k` bits of a register, the bits above reading 0 (R33). -/
theorem setWidth_setWidth_eq_and (v : Word) {k : Nat} (hk : k < 32) :
    (v.setWidth k).setWidth 32 = v &&& BitVec.ofNat 32 (2 ^ k - 1) := by
  have hpow : 2 ^ k < 2 ^ 32 := Nat.pow_lt_pow_right (by omega) hk
  have hlt := Nat.mod_lt v.toNat (Nat.two_pow_pos k)
  apply BitVec.eq_of_toNat_eq
  rw [BitVec.toNat_setWidth, BitVec.toNat_setWidth, BitVec.toNat_and, BitVec.toNat_ofNat, Nat.mod_eq_of_lt (by omega),
    Nat.mod_eq_of_lt (a := 2 ^ k - 1) (by omega), Nat.and_two_pow_sub_one_eq_mod]

/-- A register write that issues no command leaves the engine and the host's stream as they are. -/
theorem writeReg_keeps_env {n : RegName} (hn : n ≠ .cmd) (v : Word) (s : State) :
    (writeReg n v s).env = s.env ∧ (writeReg n v s).engine = s.engine := by
  rcases writeReg_cases n v s with h | ⟨-, h⟩ | ⟨-, hc, -⟩ | ⟨-, _, _, _, _, _, _, h, -⟩
  · rw [h]; exact ⟨rfl, rfl⟩
  · rw [h]; exact ⟨rfl, rfl⟩
  · exact absurd hc hn
  · rw [h]; exact ⟨rfl, rfl⟩

/-- In an idle engine a read of a register other than STATUS answers the register's value. -/
theorem readReg_of_idle {n : RegName} (hn : n ≠ .status) {s : State} (he : s.engine = .idle) : readReg n s = regValue n s := by
  rw [readReg, if_neg hn, if_neg (by simp [State.busy, he])]

/-- A write of a register and a read of the same one. -/
theorem run_write_read {s : State} {a : HostAddr} {v : Word} {rest : List HostOp} (he : s.engine = .idle)
    (hh : s.env.host = .write 32 a v :: .read 32 a :: rest) (h1 : a.toNat < 0x1000) (h2 : a.toNat % 4 = 0)
    (hcmd : regAt a.toNat ≠ .cmd) (hst : regAt a.toNat ≠ .status) :
    ∃ u, Sys2Proof.core.run 2 s = .next u ∧
      u.env.readData = regValue (regAt a.toNat)
        ((writeReg (regAt a.toNat) v (s.performed (.write 32 a v) (.read 32 a :: rest))).performed (.read 32 a) rest) := by
  obtain ⟨henv, heng⟩ := writeReg_keeps_env hcmd v (s.performed (.write 32 a v) (.read 32 a :: rest))
  obtain ⟨u, hu, hread⟩ := step_of_read (s := writeReg (regAt a.toNat) v (s.performed (.write 32 a v) (.read 32 a :: rest)))
    (by rw [henv]; rfl) h1 h2
  exact ⟨u, (core_run_succ (step_of_write hh h1 h2) 1).trans (core_run_succ hu 0),
    hread.trans (readReg_of_idle hst (heng.trans he))⟩

section
variable {s : State} (ha : s.accepting = true) (v : Word) (op : HostOp) (rest : List HostOp)
include ha

/-- A register of 32 bits reads back as written. -/
theorem regValue_writeReg_word :
    ∀ o ∈ [0x008, 0x00C, 0x010, 0x024, 0x02C, 0x030, 0x034, 0x044],
      regValue (regAt o) ((writeReg (regAt o) v s).performed op rest) = v := by
  have hv : v.setWidth 32 = v := BitVec.setWidth_eq v
  simp only [List.forall_mem_cons, List.not_mem_nil, false_implies, implies_true, and_true]
  refine ⟨?_, ?_, ?_, ?_, ?_, ?_, ?_, ?_⟩ <;>
  · change regValue _ ((guardWrite s _).performed op rest) = v
    rw [guardWrite_of_accepting ha]
    exact hv

/-- A register of 16 bits reads back the low half. -/
theorem regValue_writeReg_half :
    ∀ o ∈ [0x020, 0x028, 0x038, 0x03C],
      regValue (regAt o) ((writeReg (regAt o) v s).performed op rest) = v &&& 0x0000FFFF := by
  have hv : (v.setWidth 16).setWidth 32 = v &&& 0x0000FFFF := setWidth_setWidth_eq_and v (by decide)
  simp only [List.forall_mem_cons, List.not_mem_nil, false_implies, implies_true, and_true]
  refine ⟨?_, ?_, ?_, ?_⟩ <;>
  · change regValue _ ((guardWrite s _).performed op rest) = _
    rw [guardWrite_of_accepting ha]
    exact hv

/-- FILLER reads back the low byte. -/
theorem regValue_writeReg_byte :
    regValue (regAt 0x040) ((writeReg (regAt 0x040) v s).performed op rest) = v &&& 0x000000FF := by
  change regValue _ ((guardWrite s _).performed op rest) = _
  rw [guardWrite_of_accepting ha]
  exact setWidth_setWidth_eq_and v (k := 8) (by decide)

/-- FM_LEN reads back the length, if it is a legal one (R37). -/
theorem regValue_writeReg_fmLen :
    regValue (regAt 0x048) ((writeReg (regAt 0x048) v s).performed op rest) = legalLen v s.fmLen := by
  change regValue _ ((guardWrite s _).performed op rest) = _
  rw [guardWrite_of_accepting ha]
  rfl

/-- RF_LEN reads back the length, if it is a legal one (R37). -/
theorem regValue_writeReg_rfLen :
    regValue (regAt 0x04C) ((writeReg (regAt 0x04C) v s).performed op rest) = legalLen v s.rfLen := by
  change regValue _ ((guardWrite s _).performed op rest) = _
  rw [guardWrite_of_accepting ha]
  rfl

end

/-- Settles O52: each offset stores into its own register; the read back goes by the register's width. -/
theorem registerWritesSetOneRegisterAndReadBack : Obligations.RegisterWritesSetOneRegisterAndReadBack := by
  intro s a v rest he hf hh
  have ha : (s.performed (.write 32 a v) rest).accepting = true := State.accepting_eq_true.2 ⟨he, hf⟩
  constructor
  · have h16 : v.extractLsb' 0 16 = v.setWidth 16 := (BitVec.setWidth_eq_extractLsb' (by omega)).symm
    have h8 : v.extractLsb' 0 8 = v.setWidth 8 := (BitVec.setWidth_eq_extractLsb' (by omega)).symm
    rw [h16, h8]
    simp only [List.cons_append, List.nil_append, List.forall_mem_cons, List.not_mem_nil, false_implies, implies_true, and_true]
    refine ⟨?_, ?_, ?_, ?_, ?_, ?_, ?_, ?_, ?_, ?_, ?_, ?_, ?_, ?_, ?_⟩ <;>
    · intro hx
      rw [step_of_write hh (by omega) (by omega), hx]
      exact congrArg Host.Outcome.next (guardWrite_of_accepting ha _)
  · rintro rest' rfl hmem
    have hreg : a.toNat < 0x1000 ∧ a.toNat % 4 = 0 ∧ regAt a.toNat ≠ .cmd ∧ regAt a.toNat ≠ .status := by
      generalize a.toNat = o at hmem
      revert o
      decide
    obtain ⟨h1, h2, hcmd, hst⟩ := hreg
    obtain ⟨u, hu, hread⟩ := run_write_read he hh h1 h2 hcmd hst
    refine ⟨u, hu, ?_⟩
    rw [hread]
    by_cases hhalf : a.toNat ∈ [0x020, 0x028, 0x038, 0x03C]
    · rw [if_pos hhalf]
      exact regValue_writeReg_half ha v _ _ _ hhalf
    rw [if_neg hhalf]
    by_cases hbyte : a.toNat = 0x040
    · rw [if_pos hbyte, hbyte]
      exact regValue_writeReg_byte ha v _ _
    rw [if_neg hbyte]
    by_cases hfmLen : a.toNat = 0x048
    · rw [if_pos hfmLen, hfmLen]
      exact regValue_writeReg_fmLen ha v _ _
    rw [if_neg hfmLen]
    by_cases hrfLen : a.toNat = 0x04C
    · rw [if_pos hrfLen, hrfLen]
      exact regValue_writeReg_rfLen ha v _ _
    rw [if_neg hrfLen]
    refine regValue_writeReg_word ha v _ _ _ ?_
    simp only [List.mem_cons, List.not_mem_nil, or_false] at hmem hhalf ⊢
    omega

end Sys2Proof.Machine

/-! SUPPORT. What the commands answer over unwritten registers and bytes (R43, R248). -/

namespace Sys2Proof.Machine

/-! ### CSUM and WRAPSUM, exactly (R112, R113) -/

/-- The complement of the low half, as a 32-bit result (R111). -/
theorem setWidth_wrap (x : Word) : (wrap x).setWidth 32 = ~~~x &&& 0x0000FFFF := by
  have hlow : wrap x = (~~~x).setWidth 16 := by
    rw [wrap, ← BitVec.setWidth_eq_extractLsb' (by decide), BitVec.setWidth_not (by decide)]
  rw [hlow]
  exact setWidth_setWidth_eq_and _ (k := 16) (by decide)

/-- WRAPSUM always goes on, to this state. -/
theorem exec_wrapsum (s : State) :
    exec .wrapsum s = .next { s with
      result0 := ~~~s.acc.value &&& 0x0000FFFF, faulted := s.faulted || !s.acc.written
      engine := .idle, done := true, code := if s.acc.written then .ok else s.code } := by
  change execWrapsum s = _
  rw [execWrapsum, outcome_finish, setWidth_wrap]
  rfl

/-- CSUM of a span that leaves the space goes on to this state (R247, R248). -/
theorem exec_csum_of_lt {s : State} (sp : Space) (h : 65536 < s.arg0.value.toNat + s.arg1.value.toNat) :
    exec (.csum sp) s = .next { s with
      result0 := if s.arg0.written && s.arg1.written then s.arg0.value else s.result0
      result1 := if s.arg0.written && s.arg1.written then s.arg1.value else s.result1
      engine := .idle, done := true
      code := if s.arg0.written && s.arg1.written then .badOperand else s.code
      faulted := s.faulted || !(s.arg0.written && s.arg1.written) } := by
  change execCsum sp s = _
  rw [execCsum, if_pos h, outcome_badOperand]

/-- CSUM of a written span in the space goes on to this state. -/
theorem exec_csum_of_holds {s : State} {sp : Space} {d : List Byte} (h : s.arg0.value.toNat + s.arg1.value.toNat ≤ 65536)
    (hl : d.length = s.arg1.value.toNat) (hd : s.holds sp s.arg0.value.toNat d) :
    exec (.csum sp) s = .next { s with
      acc := { value := ck d s.acc.value, written := true }
      faulted := s.faulted || !(s.arg0.written && s.arg1.written && s.acc.written)
      engine := .idle, done := true
      code := if s.arg0.written && s.arg1.written && s.acc.written then .ok else s.code } := by
  change execCsum sp s = _
  rw [execCsum, if_neg (by omega), ← hl, readSpan_of_holds hd, need_ok, outcome_finish]
  rfl

/-- CSUM of a span in the space that cannot be read stops there (R248). -/
theorem exec_csum_of_error {s : State} {sp : Space} {f : Fault} (h : s.arg0.value.toNat + s.arg1.value.toNat ≤ 65536)
    (hr : readSpan sp s s.arg0.value.toNat s.arg1.value.toNat = .error f) : exec (.csum sp) s = .fault f := by
  change execCsum sp s = _
  rw [execCsum, if_neg (by omega), hr, need_error]

/-- Settles O17, clause by clause from what CSUM and WRAPSUM answer. -/
theorem checksumOfUnwrittenStateIsTheModelFault : Obligations.ChecksumOfUnwrittenStateIsTheModelFault := by
  intro s sp
  refine ⟨fun ha => ?_, fun ha hlt => ?_, fun d ha hle hl hd => ?_, fun i t hi h h0 h1 ha => ?_, fun hle hun => ?_⟩
  · simp [exec_wrapsum, ha]
  · have hm : (s.arg0.written && s.arg1.written) = false := by rcases ha with ha | ha <;> simp [ha]
    simp [exec_csum_of_lt sp hlt, hm]
  · have hm : (s.arg0.written && s.arg1.written && s.acc.written) = false := by
      rcases ha with ha | ha | ha <;> simp [ha]
    simp [exec_csum_of_holds hle hl hd, hm]
  · have hm : s.readMarks i = true := by
      rcases hi with rfl | rfl <;> simp [State.readMarks, h0, h1, ha]
    rw [exec_faulted h, hm, Bool.not_true, Bool.or_false]
  · obtain ⟨i, hi, hn, hr⟩ := readSpan_of_unwritten hun
    exact ⟨i, hi, hn, exec_csum_of_error hle hr⟩

/-! ### The other commands over unwritten state -/

/-- BUILD always goes on (R140). -/
theorem exec_build_goes_on (s : State) : ∃ t, exec .build s = .next t := by
  change ∃ t, execBuild s = .next t
  unfold execBuild
  split <;> exact ⟨_, rfl⟩

/-- BUILD over an unwritten register reports nothing: no code, not halted (R248). -/
theorem exec_build_withheld {s t : State} (hm : s.readMarks .build = false) (h : exec .build s = .next t) :
    t.faulted = true ∧ t.code = s.code ∧ t.fatal = s.fatal := by
  refine ⟨by rw [exec_faulted h, hm, Bool.not_false, Bool.or_true], ?_⟩
  rcases execBuild_eq_next h with ⟨hl, rfl⟩ | ⟨h1, h2, rfl⟩
  · have hw : s.spec.frameLen.written = false := by rwa [State.readMarks, if_pos hl] at hm
    simp [hw]
  · rw [State.readMarks_build_of_legal h1 h2] at hm
    obtain ⟨-, -, hfatal, -, -, -⟩ := layOut_keeps s.spec.fields s.spec.frameLen.value.toNat s
    exact ⟨by simp [hm], hfatal⟩

/-- BUILD of a legal length sets FM_LEN to it (R151). -/
theorem exec_build_fmLen {s t : State} (h1 : 42 ≤ s.spec.frameLen.value.toNat) (h2 : s.spec.frameLen.value.toNat ≤ 65536)
    (h : exec .build s = .next t) : t.fmLen = s.spec.frameLen.value := by
  rcases execBuild_eq_next h with ⟨hl, -⟩ | ⟨-, -, rfl⟩
  · omega
  · simp [layOut]

/-- An unwritten FRAME_LEN is read at once, and counts among BUILD's unwritten registers. -/
theorem State.readMarks_build_of_frameLen {s : State} (hw : s.spec.frameLen.written = false) : s.readMarks .build = false := by
  have hm : s.spec.marked = false := by simp [PacketSpec.marked, hw]
  simp [State.readMarks, hw, hm]

/-- With a free slot that the frame fits, an attempt of SEND stops at a byte of the frame it cannot read (R181, R248). -/
theorem sendAttempt_of_error {s : State} {f : Fault} (hfree : ∃ t ∈ s.txq, 0 < t.free s.cfg.numSlots)
    (hfit : s.fmLen.toNat ≤ s.cfg.slotBufSize) (hr : readSpan .fm s 0 s.fmLen.toNat = .error f) : sendAttempt s = .fault f := by
  cases hf : firstFree s with
  | none =>
    obtain ⟨t, ht, hpos⟩ := hfree
    have := firstFree_eq_none.1 hf t ht
    omega
  | some x => rw [sendAttempt, hf, hr]; exact if_neg (by omega)

/-- An attempt of RECV with ARG0 unwritten reports nothing: no code, not halted (R248). -/
theorem recvAttempt_withheld {s t : State} (hw : s.arg0.written = false) (h : recvAttempt s = .next t) :
    t.code = s.code ∧ t.fatal = s.fatal := by
  rcases recvAttempt_eq_next h with ⟨-, rfl⟩ | ⟨q, r, -, rfl⟩
  · exact ⟨rfl, rfl⟩
  · cases (drainQueue q r s).2
    case whole => simp [endDrain_whole, hw]
    case cut => simp [endDrain_cut, hw]
    case slotTooLong => simp [endDrain_slotTooLong, hw]
    case frameTooLong => simp [endDrain_frameTooLong, hw]

/-- The end of RECV's sleep with ARG0 unwritten reports nothing (R248). -/
theorem endPoll_withheld {s : State} (hw : s.arg0.written = false) : (endPoll s).code = s.code ∧ (endPoll s).fatal = s.fatal := by
  unfold endPoll
  split
  · simp [timeOut_eq, hw]
  · exact ⟨rfl, rfl⟩

/-- VERIFY goes on past bytes that stand equal in FM and RF (R220). -/
theorem compareFrom_of_equal {fm rf : Memory} (n : Nat) {i : Nat} {d : List Byte}
    (hf : ∀ j < d.length, Table.read fm (i + j) = d[j]?) (hr : ∀ j < d.length, Table.read rf (i + j) = d[j]?) :
    compareFrom (d.length + n) i fm rf = compareFrom n (i + d.length) fm rf := by
  induction d generalizing i with
  | nil => simp
  | cons b d ih =>
    have hf0 : Table.read fm i = some b := hf 0 (by simp)
    have hr0 : Table.read rf i = some b := hr 0 (by simp)
    have next : ∀ m : Memory, (∀ j < (b :: d).length, Table.read m (i + j) = (b :: d)[j]?) →
        ∀ j < d.length, Table.read m (i + 1 + j) = d[j]? := fun m hm j hj => by
      rw [Nat.add_assoc, Nat.add_comm 1 j]
      exact hm (j + 1) (by simpa using hj)
    rw [List.length_cons, Nat.add_right_comm, compareFrom_succ, hf0, hr0]
    simp only [ne_eq, not_true_eq_false, if_false]
    rw [ih (next fm hf) (next rf hr), Nat.add_assoc, Nat.add_comm 1]

/-- VERIFY goes on from the first byte past the equal ones `d` (R220). -/
theorem exec_verify_of_equal {s : State} {d : List Byte} (hl : s.fmLen = s.rfLen) (hd : d.length < s.fmLen.toNat)
    (hf : s.holds .fm 0 d) (hr : s.holds .rf 0 d) :
    ∃ n, exec .verify s = need (compareFrom (n + 1) d.length s.fm s.rf) fun x => .next (reportComparison x s) := by
  obtain ⟨n, hn⟩ := Nat.exists_eq_add_of_lt hd
  have h := compareFrom_of_equal (fm := s.fm) (rf := s.rf) (n + 1) hf hr
  rw [← Nat.add_assoc, ← hn, Nat.zero_add] at h
  refine ⟨n, ?_⟩
  change execVerify s = _
  rw [execVerify, if_neg (not_not_intro hl), h]

/-- Settles O24, command by command. -/
theorem buildSendRecvVerifyOfUnwrittenStateIsTheModelFault :
    Obligations.BuildSendRecvVerifyOfUnwrittenStateIsTheModelFault := by
  intro s
  refine ⟨fun hw => ?build, fun hm h1 h2 => ?buildLegal, fun hfree hfit hun => ?send, fun hw => ⟨?recv, fun b t h => ?recvPass,
    fun he hh => ?recvSleep⟩, fun d hl hd hf hr => ?verify⟩
  case build =>
    obtain ⟨t, h⟩ := exec_build_goes_on s
    exact ⟨t, h, exec_build_withheld (State.readMarks_build_of_frameLen hw) h⟩
  case buildLegal =>
    obtain ⟨t, h⟩ := exec_build_goes_on s
    obtain ⟨hfault, hcode, hfatal⟩ := exec_build_withheld ((State.readMarks_build_of_legal h1 h2).trans hm) h
    exact ⟨t, h, hfault, exec_build_fmLen h1 h2 h, hcode, hfatal⟩
  case send =>
    obtain ⟨i, hi, hn, hr⟩ := readSpan_of_unwritten (off := 0) (by simpa using hun)
    rw [Nat.zero_add] at hn hr
    refine ⟨i, hi, hn, sendAttempt_of_error (s := { s with txRounds := 0 }) hfree hfit hr, fun he hh => ?_⟩
    rw [step_of_hostWaits hh (by simp [he]), engineStep_of_sendLoop he]
    exact sendAttempt_of_error hfree hfit hr
  case recv =>
    obtain ⟨u, hu, hf⟩ := recvAttempt_goes_on (s.recvFrom s.recvFirst 0)
    exact ⟨u, hu, by simp [hf, hw]⟩
  case recvPass =>
    obtain ⟨l, hl⟩ := State.recvAttempt_of_recvPass h
    exact recvAttempt_withheld (s := s.recvFrom b l) hw hl
  case recvSleep =>
    rw [step_of_hostWaits hh (by simp [he]), engineStep_of_recvSleep he]
    exact ⟨_, rfl, endPoll_withheld hw⟩
  case verify =>
    obtain ⟨n, hn⟩ := exec_verify_of_equal hl hd hf hr
    rw [hn, compareFrom_succ]
    refine ⟨fun hfm => ?_, fun hfm hrf => ?_⟩
    · rw [show Table.read s.fm d.length = none from hfm]
      rfl
    · obtain ⟨x, hx⟩ := Option.ne_none_iff_exists'.1 hfm
      rw [show Table.read s.fm d.length = some x from hx, show Table.read s.rf d.length = none from hrf]
      rfl

end Sys2Proof.Machine

/-! SUPPORT. FM and RF under every step (R61, R62). -/

namespace Sys2Proof.Machine

/-- Laying out a frame writes FM from address 0 on, and leaves RF alone (R140, R150). -/
theorem layOut_buffers (f : FrameFields) (l : Nat) (s : State) :
    (layOut f l s).fm = Table.writeRun s.fm 0 (frameBytes s.cfg f l) ∧ (layOut f l s).rf = s.rf := by
  unfold layOut
  exact ⟨placeFrame_fm .., placeFrame_rf ..⟩

/-- A frame of a legal length lies within FM (R140, R141). -/
theorem execBuild_buffersInv {s t : State} (hs : s.buffersInv) (h : execBuild s = .next t) : t.buffersInv := by
  obtain ⟨hfm, hrf⟩ := hs
  rcases execBuild_eq_next h with ⟨-, rfl⟩ | ⟨hge, hle, rfl⟩
  · refine ⟨?_, hrf⟩
    change Memory.wf 65536 (if s.spec.frameLen.written then [] else s.fm)
    split
    · exact Table.wf_nil _
    · exact hfm
  · obtain ⟨hfm', hrf'⟩ := layOut_buffers s.spec.fields s.spec.frameLen.value.toNat s
    exact ⟨hfm' ▸ Memory.wf_writeRun hfm (by rw [length_frameBytes _ _ hge]; omega), hrf' ▸ hrf⟩

/-- An attempt of SEND reads FM and writes neither buffer (R181). -/
theorem sendAttempt_buffers {s t : State} (h : sendAttempt s = .next t) : t.fm = s.fm ∧ t.rf = s.rf := by
  rcases sendAttempt_eq_next h with ⟨-, rfl⟩ | ⟨_, _, -, ⟨-, rfl⟩ | ⟨-, _, -, rfl⟩⟩ <;> exact ⟨rfl, rfl⟩

/-- A drain appends only what check 2 has found to fit, so RF stays within its 65536 bytes (R186, R187). -/
theorem drain_rf_wf (cfg : Params) (q : Nat) (slots : Table Slot) (avail : Nat) {d : Drain} (h : Memory.wf 65536 d.rf) :
    Memory.wf 65536 (drain cfg q slots avail d).1.rf :=
  drain_induction (P := fun x => Memory.wf 65536 x.rf)
    (fun _ hx _ hfit => Memory.wf_writeRun hx (by rw [Slot.length_bytes]; exact hfit)) avail d h

/-- However a drain ends, FM is as it was and RF is what the drain has made of it. -/
theorem endDrain_buffers (q : Nat) (r : RxQueue) (d : Drain) (how : DrainEnd) (s : State) :
    (endDrain q r d how s).fm = s.fm ∧ (endDrain q r d how s).rf = d.rf := by
  cases how
  case whole => rw [endDrain_whole]; exact ⟨rfl, rfl⟩
  case cut => rw [endDrain_cut]; exact ⟨rfl, rfl⟩
  case slotTooLong => rw [endDrain_slotTooLong]; exact ⟨rfl, rfl⟩
  case frameTooLong => rw [endDrain_frameTooLong]; exact ⟨rfl, rfl⟩

theorem recvAttempt_buffersInv {s t : State} (hs : s.buffersInv) (h : recvAttempt s = .next t) : t.buffersInv := by
  obtain ⟨hfm, hrf⟩ := id hs
  rcases recvAttempt_eq_next h with ⟨-, rfl⟩ | ⟨q, r, -, rfl⟩
  · exact hs
  · obtain ⟨hfm', hrf'⟩ := endDrain_buffers q r (drainQueue q r s).1 (drainQueue q r s).2 s
    exact ⟨hfm' ▸ hfm, hrf' ▸ drain_rf_wf s.cfg q r.slots _ hrf⟩

theorem exec_buffersInv {i : Instr} {s t : State} (hs : s.buffersInv) (h : exec i s = .next t) : t.buffersInv := by
  obtain ⟨hfm, hrf⟩ := id hs
  cases i with
  | csum sp => rcases execCsum_eq_next h with ⟨-, rfl⟩ | ⟨-, _, -, rfl⟩ <;> exact hs
  | wrapsum => cases execWrapsum_eq_next h; exact hs
  | build => exact execBuild_buffersInv hs h
  | send =>
    obtain ⟨hfm', hrf'⟩ := sendAttempt_buffers (s := { s with txRounds := 0 }) h
    exact ⟨hfm' ▸ hfm, hrf' ▸ hrf⟩
  | recv => exact recvAttempt_buffersInv (s := s.recvFrom s.recvFirst 0) hs h
  | verify =>
    rcases execVerify_eq_next h with ⟨-, rfl⟩ | ⟨-, d, -, rfl⟩
    · exact hs
    · cases d <;> exact hs

theorem endPoll_buffers (s : State) : (endPoll s).fm = s.fm ∧ (endPoll s).rf = s.rf := by
  unfold endPoll
  split
  · rw [timeOut_eq]; exact ⟨rfl, rfl⟩
  · exact ⟨rfl, rfl⟩

theorem engineStep_buffersInv {s t : State} (hs : s.buffersInv) (h : engineStep s = .next t) : t.buffersInv := by
  obtain ⟨hfm, hrf⟩ := id hs
  rcases engineStep_eq_next h with ⟨-, rfl⟩ | ⟨-, ⟨_, -, hx⟩ | ⟨-, rfl⟩⟩ | ⟨-, hx⟩ | ⟨-, rfl⟩ | ⟨-, hx⟩ | ⟨-, rfl⟩
  · exact hs
  · exact exec_buffersInv hs hx
  · exact hs
  · obtain ⟨hfm', hrf'⟩ := sendAttempt_buffers hx
    exact ⟨hfm' ▸ hfm, hrf' ▸ hrf⟩
  · exact hs
  · exact recvAttempt_buffersInv hs hx
  · obtain ⟨hfm', hrf'⟩ := endPoll_buffers s
    exact ⟨hfm' ▸ hfm, hrf' ▸ hrf⟩

/-- The host's one write to a buffer is a byte that the address map has placed inside it (R65, R67). -/
theorem writeTarget_buffersInv {width : Nat} {addr : HostAddr} {tgt : Target} (ht : target width addr = some tgt) (v : Word)
    {s : State} (hs : s.buffersInv) : (writeTarget tgt v s).buffersInv := by
  obtain ⟨hfm, hrf⟩ := id hs
  rcases writeTarget_cases tgt v s with h | ⟨-, h⟩ | ⟨-, h⟩ | ⟨-, _, _, _, _, _, _, h, -⟩ | ⟨-, sp, a, rfl, h⟩ <;> rw [h]
  · exact hs
  · exact hs
  · exact ⟨issue_keeps (f := State.fm) v s rfl rfl ▸ hfm, issue_keeps (f := State.rf) v s rfl rfl ▸ hrf⟩
  · exact hs
  · exact State.memory_wf_writeByte hfm hrf (target_byte_lt ht) _

/-- Settles O54: every write of a buffer, by BUILD, by RECV's drain or by the host, lies within it; a reset empties both. -/
theorem stepKeepsTheBuffersCanonical : Obligations.StepKeepsTheBuffersCanonical := by
  intro s t hs h
  rcases step_eq_next h with ⟨s', hs', -, he⟩ | ⟨op, rest, -, hop⟩
  · rcases hs' with rfl | ⟨rest, -, rfl⟩
    · exact engineStep_buffersInv hs he
    · exact engineStep_buffersInv (s := s.withStream rest) hs he
  · rcases hop with ⟨_, _, -, _, rfl⟩ | ⟨_, _, v, tgt, -, ht, rfl⟩ | ⟨-, -, rfl⟩ | ⟨-, rfl⟩
    · exact hs
    · exact writeTarget_buffersInv ht v (s := s.performed op rest) hs
    · exact hs
    · exact ⟨Table.wf_nil _, Table.wf_nil _⟩

end Sys2Proof.Machine

/-! SUPPORT. The rings between syncs (R79): no command but SEND changes a transmit queue, none but RECV a receive queue. -/

namespace Sys2Proof.Machine

theorem sendAttempt_rxq {s t : State} (h : sendAttempt s = .next t) : t.rxq = s.rxq := by
  rcases sendAttempt_eq_next h with ⟨-, rfl⟩ | ⟨_, _, -, ⟨-, rfl⟩ | ⟨-, _, -, rfl⟩⟩ <;> rfl

theorem endDrain_txq (q : Nat) (r : RxQueue) (d : Drain) (how : DrainEnd) (s : State) :
    (endDrain q r d how s).txq = s.txq := by
  cases how
  case whole => rw [endDrain_whole]
  case cut => rw [endDrain_cut]
  case slotTooLong => rw [endDrain_slotTooLong]
  case frameTooLong => rw [endDrain_frameTooLong]

theorem recvAttempt_txq {s t : State} (h : recvAttempt s = .next t) : t.txq = s.txq := by
  rcases recvAttempt_eq_next h with ⟨-, rfl⟩ | ⟨q, r, -, rfl⟩
  · rfl
  · exact endDrain_txq q r _ _ s

theorem exec_txq {i : Instr} {s t : State} (hi : i ≠ .send) (h : exec i s = .next t) : t.txq = s.txq := by
  by_cases hrecv : i = .recv
  · subst hrecv
    exact recvAttempt_txq (s := s.recvFrom s.recvFirst 0) h
  · exact (exec_rings hi hrecv h).1

theorem exec_rxq {i : Instr} {s t : State} (hi : i ≠ .recv) (h : exec i s = .next t) : t.rxq = s.rxq := by
  by_cases hsend : i = .send
  · subst hsend
    exact sendAttempt_rxq (s := { s with txRounds := 0 }) h
  · exact (exec_rings hsend hi h).2

/-- The engine's step changes a transmit queue only in a pass of SEND (R79, R176). -/
theorem engineStep_txq {s t : State} (hloop : s.engine ≠ .sendLoop) (hstart : s.engine = .start → decode s.cmd ≠ .ok .send)
    (h : engineStep s = .next t) : t.txq = s.txq := by
  rcases engineStep_eq_next h with ⟨-, rfl⟩ | ⟨he, ⟨i, hd, hx⟩ | ⟨-, rfl⟩⟩ | ⟨he, -⟩ | ⟨-, rfl⟩ | ⟨-, hx⟩ | ⟨-, rfl⟩
  · rfl
  · exact exec_txq (fun hi => hstart he (hi ▸ hd)) hx
  · rfl
  · exact absurd he hloop
  · rfl
  · exact recvAttempt_txq hx
  · exact (endPoll_rings s).1

/-- The engine's step changes a receive queue only in a pass of RECV (R79, R176). -/
theorem engineStep_rxq {s t : State} (hloop : s.engine ≠ .recvLoop) (hstart : s.engine = .start → decode s.cmd ≠ .ok .recv)
    (h : engineStep s = .next t) : t.rxq = s.rxq := by
  rcases engineStep_eq_next h with ⟨-, rfl⟩ | ⟨he, ⟨i, hd, hx⟩ | ⟨-, rfl⟩⟩ | ⟨-, hx⟩ | ⟨-, rfl⟩ | ⟨he, -⟩ | ⟨-, rfl⟩
  · rfl
  · exact exec_rxq (fun hi => hstart he (hi ▸ hd)) hx
  · rfl
  · exact sendAttempt_rxq hx
  · rfl
  · exact absurd he hloop
  · exact (endPoll_rings s).2

/-- Settles O27: in the engine's step a queue's own command alone reaches it, and no host operation but a reset does. -/
theorem ringsChangeOnlyWhileSendOrRecvRuns : Obligations.RingsChangeOnlyWhileSendOrRecvRuns := by
  intro s t h hreset
  rcases step_eq_next h with ⟨s', hs', -, he⟩ | ⟨op, rest, hh, hop⟩
  · rcases hs' with rfl | ⟨rest, -, rfl⟩
    · exact ⟨fun hl hst => engineStep_txq hl hst he, fun hl hst => engineStep_rxq hl hst he⟩
    · exact ⟨fun hl hst => engineStep_txq (s := s.withStream rest) hl hst he,
        fun hl hst => engineStep_rxq (s := s.withStream rest) hl hst he⟩
  · rcases hop with ⟨_, _, -, _, rfl⟩ | ⟨_, _, v, tgt, -, -, rfl⟩ | ⟨-, -, rfl⟩ | ⟨rfl, -⟩
    · exact ⟨fun _ _ => rfl, fun _ _ => rfl⟩
    · obtain ⟨-, htx, hrx⟩ := writeTarget_rings tgt v (s.performed op rest)
      exact ⟨fun _ _ => htx, fun _ _ => hrx⟩
    · exact ⟨fun _ _ => rfl, fun _ _ => rfl⟩
    · exact absurd (by rw [hh]; rfl) hreset

end Sys2Proof.Machine

/-! SUPPORT. The host's accesses by the address map (R65 to R68): which are refused, and the write of a buffer byte. -/

namespace Sys2Proof.Machine

/-! ### The address map -/

/-- The accesses the address map refuses are those R65 to R67 do not allow (R68). -/
theorem target_eq_none {width : Nat} {addr : HostAddr} : target width addr = none ↔ ¬ legalAccess width addr := by
  unfold target
  repeat' split
  all_goals simp only [reduceCtorEq, true_iff, false_iff, not_not]
  all_goals omega

/-- A legal access to the window is a 32-bit one and reaches the register at its offset (R66). -/
theorem target_of_window {width : Nat} {addr : HostAddr} (hl : legalAccess width addr) (h : addr.toNat < 0x1000) :
    target width addr = some (.register addr.toNat) := by
  obtain ⟨-, rfl, h4⟩ | ⟨hge, -⟩ := hl
  · exact target_register h h4
  · omega

theorem toNat_byteAddr_fm {i : Nat} (h : i < 65536) : (byteAddr .fm i).toNat = 0x10000 + i :=
  Nat.mod_eq_of_lt (by omega)

theorem toNat_byteAddr_rf {i : Nat} (h : i < 65536) : (byteAddr .rf i).toNat = 0x20000 + i :=
  Nat.mod_eq_of_lt (by omega)

/-- An 8-bit access to the address of a buffer byte reaches it (R65, R67). -/
theorem target_byteAddr (sp : Space) {i : Nat} (h : i < 65536) : target 8 (byteAddr sp i) = some (.byte sp i) := by
  cases sp with
  | fm =>
    rw [target, toNat_byteAddr_fm h, if_neg (by omega), if_neg (by omega), if_pos (by omega), if_pos rfl, Nat.add_sub_cancel_left]
  | rf =>
    rw [target, toNat_byteAddr_rf h, if_neg (by omega), if_neg (by omega), if_neg (by omega), if_pos (by omega), if_pos rfl,
      Nat.add_sub_cancel_left]

/-- A legal access to the address of a buffer byte is an 8-bit one (R67). -/
theorem width_of_byteAddr {width : Nat} {sp : Space} {i : Nat} (hl : legalAccess width (byteAddr sp i)) (h : i < 65536) :
    width = 8 := by
  obtain ⟨hlt, -⟩ | ⟨-, -, hw⟩ := hl
  · have := toNat_byteAddr_fm h
    have := toNat_byteAddr_rf h
    cases sp <;> omega
  · exact hw

/-! ### Refused accesses -/

theorem step_of_hostRead {s : State} {width : Nat} {addr : HostAddr} {rest : List HostOp}
    (h : s.env.host = .read width addr :: rest) :
    step s = hostRead width addr (s.performed (.read width addr) rest) := by
  rw [step, machineStep, h]
  rfl

theorem step_of_hostWrite {s : State} {width : Nat} {addr : HostAddr} {v : Word} {rest : List HostOp}
    (h : s.env.host = .write width addr v :: rest) :
    step s = hostWrite width addr v (s.performed (.write width addr v) rest) := by
  rw [step, machineStep, h]
  rfl

theorem hostRead_eq_refused {width : Nat} {addr : HostAddr} {s : State} :
    hostRead width addr s = .refused (.hostAccessRefused width addr) ↔ target width addr = none := by
  unfold hostRead
  cases target width addr <;> simp

theorem hostWrite_eq_refused {width : Nat} {addr : HostAddr} {v : Word} {s : State} :
    hostWrite width addr v s = .refused (.hostAccessRefused width addr) ↔ target width addr = none := by
  unfold hostWrite
  cases target width addr <;> simp

/-- Settles O50: a read and a write are refused exactly where the address map has no target. -/
theorem illegalHostAccessesAreRefused : Obligations.IllegalHostAccessesAreRefused := by
  intro s w a op rest hop hh
  rw [← target_eq_none]
  rcases hop with rfl | ⟨v, rfl⟩
  · rw [step_of_hostRead hh]
    exact hostRead_eq_refused
  · rw [step_of_hostWrite hh]
    exact hostWrite_eq_refused

/-! ### The write of a buffer byte -/

theorem State.memory_writeByte (s : State) (sp : Space) (a : Nat) (b : Byte) :
    (s.writeByte sp a b).memory sp = Table.write (s.memory sp) a b := by
  cases sp <;> rfl

theorem State.memory_writeByte_of_ne (s : State) {sp sp' : Space} (h : sp' ≠ sp) (a : Nat) (b : Byte) :
    (s.writeByte sp a b).memory sp' = s.memory sp' := by
  cases sp <;> cases sp'
  · exact absurd rfl h
  · rfl
  · rfl
  · exact absurd rfl h

/-- The bytes of a buffer after one of them has been written (R67). -/
theorem State.byteAt_writeByte {s : State} {sp : Space} (hw : Memory.wf 65536 (s.memory sp)) (a x : Nat) (b : Byte) :
    (s.writeByte sp a b).byteAt sp x = if x = a then some b else s.byteAt sp x := by
  rw [State.byteAt, State.memory_writeByte, Table.read_write hw.1]
  rfl

/-- The host's write of a buffer byte in an engine that takes it (R67, R245). -/
theorem step_of_byteWrite {s : State} {sp : Space} {a : Nat} {v : Word} {rest : List HostOp} (he : s.engine = .idle)
    (hf : s.fatal = false) (ha : a < 65536) (hh : s.env.host = .write 8 (byteAddr sp a) v :: rest) :
    step s = .next ((s.performed (.write 8 (byteAddr sp a) v) rest).writeByte sp a (v.setWidth 8)) := by
  have hacc : (s.performed (.write 8 (byteAddr sp a) v) rest).accepting = true := State.accepting_eq_true.2 ⟨he, hf⟩
  rw [step_of_hostWrite hh, hostWrite, target_byteAddr sp ha]
  exact congrArg Host.Outcome.next (guardWrite_of_accepting hacc _)

/-- Settles O51: the write reaches the byte at its address, and the buffer's table then reads as before elsewhere. -/
theorem hostByteWriteWritesOneByte : Obligations.HostByteWriteWritesOneByte := by
  intro s sp a v rest he hf hw ha hh
  have hbyte : ∀ x, ((s.performed (.write 8 (byteAddr sp a) v) rest).writeByte sp a (v.setWidth 8)).byteAt sp x =
      if x = a then some (v.setWidth 8) else s.byteAt sp x := fun x =>
    State.byteAt_writeByte (s := s.performed (.write 8 (byteAddr sp a) v) rest) hw a x _
  refine ⟨_, step_of_byteWrite he hf ha hh, ?written, fun b hb => ?others, fun sp' hsp => ?otherBuffer, ?rest⟩
  case written => rw [hbyte, if_pos rfl]
  case others => rw [hbyte, if_neg hb]
  case otherBuffer => exact State.memory_writeByte_of_ne _ hsp _ _
  case rest => cases sp <;> rfl

end Sys2Proof.Machine

/-! SUPPORT. What a host read returns while the engine is idle, register by register (R30, R73). -/

namespace Sys2Proof.Machine

/-! ### The register map by offset -/

/-- STATUS stands at 0x004 only. -/
theorem regAt_ne_status {o : Nat} (h : o ≠ 0x004) : regAt o ≠ .status := by
  by_cases hlow : o < 0x070
  · have hnamed : ∀ x < 0x070, x ≠ 0x004 → regAt x ≠ .status := by decide
    exact hnamed o hlow h
  · rw [regAt_of_le (by omega), queueReg]
    repeat' split
    all_goals simp

/-- The pointers of transmit queue `q` (R30). -/
theorem regAt_txq {q : Nat} (hq : q < 64) :
    regAt (0x100 + 0x10 * q) = .txHead q ∧ regAt (0x104 + 0x10 * q) = .txCur q ∧ regAt (0x108 + 0x10 * q) = .txTail q := by
  refine ⟨?_, ?_, ?_⟩ <;> rw [regAt_of_le (by omega), queueReg, if_pos (by omega)]
  · rw [if_pos (by omega)]
    congr 1
    omega
  · rw [if_neg (by omega), if_pos (by omega)]
    congr 1
    omega
  · rw [if_neg (by omega), if_neg (by omega), if_pos (by omega)]
    congr 1
    omega

/-- The pointers of receive queue `q` (R30). -/
theorem regAt_rxq {q : Nat} (hq : q < 64) :
    regAt (0x500 + 0x10 * q) = .rxHead q ∧ regAt (0x504 + 0x10 * q) = .rxCur q ∧ regAt (0x508 + 0x10 * q) = .rxTail q := by
  refine ⟨?_, ?_, ?_⟩ <;> rw [regAt_of_le (by omega), queueReg, if_neg (by omega), if_pos (by omega)]
  · rw [if_pos (by omega)]
    congr 1
    omega
  · rw [if_neg (by omega), if_pos (by omega)]
    congr 1
    omega
  · rw [if_neg (by omega), if_neg (by omega), if_pos (by omega)]
    congr 1
    omega

/-- The reserved offsets from 0x070 on: below, beside and above the queue pointers (R30, R40). -/
theorem regAt_reserved {o : Nat} (h : (0x070 ≤ o ∧ o < 0x100) ∨ (0x100 ≤ o ∧ o % 0x10 = 0xC) ∨ 0x900 ≤ o) :
    regAt o = .reserved := by
  rw [regAt_of_le (by omega)]
  obtain hout | hbeside : (o < 0x100 ∨ 0x900 ≤ o) ∨ o % 0x10 = 0xC := by omega
  · rw [queueReg, if_neg (by omega), if_neg (by omega)]
  · simp [queueReg, hbeside]

/-! ### What a register holds for the host -/

/-- A written register reads as the number it holds (R33). -/
theorem Reg.toNat_hostValue {w : Nat} (hw : w ≤ 32) {r : Reg w} (h : r.written = true) (draw : Nat) :
    (r.hostValue draw).toNat = r.value.toNat := by
  rw [Reg.hostValue, if_pos h, BitVec.toNat_setWidth_of_le hw]

theorem Reg.hostValue_word {r : Reg 32} (h : r.written = true) (draw : Nat) : r.hostValue draw = r.value :=
  BitVec.eq_of_toNat_eq (Reg.toNat_hostValue le_rfl h draw)

theorem txPointer_eq (f : TxQueue → Word) (q : Nat) (s : State) : txPointer f q s = (s.txq[q]?).elim 0 f := by
  unfold txPointer
  cases s.txq[q]? <;> rfl

theorem rxPointer_eq (f : RxQueue → Word) (q : Nat) (s : State) : rxPointer f q s = (s.rxq[q]?).elim 0 f := by
  unfold rxPointer
  cases s.rxq[q]? <;> rfl

/-- Legal parameters fit their CFG registers (R10, R36). -/
theorem regValue_cfg {s : State} (hp : s.cfg.legal) :
    ∀ x ∈ [(0x058, s.cfg.numTxQueues + 65536 * s.cfg.numRxQueues), (0x05C, s.cfg.numSlots), (0x060, s.cfg.slotBufSize),
      (0x064, s.cfg.pollIntervalUs), (0x068, s.cfg.txBackoffUs), (0x06C, s.cfg.ipTtl)],
      (regValue (regAt x.1) s).toNat = x.2 := by
  obtain ⟨htx, hrx, hslots, hbuf, hpoll, hback, httl⟩ := hp
  have hqueues : (s.cfg.numTxQueues % 65536 + 65536 * (s.cfg.numRxQueues % 65536)) % 2 ^ 32 =
      s.cfg.numTxQueues + 65536 * s.cfg.numRxQueues := by omega
  have httl' : s.cfg.ipTtl % 256 % 2 ^ 32 = s.cfg.ipTtl := by omega
  simp only [List.forall_mem_cons, List.not_mem_nil, false_implies, implies_true, and_true]
  exact ⟨hqueues, Nat.mod_eq_of_lt (by omega), Nat.mod_eq_of_lt (by omega), Nat.mod_eq_of_lt (by omega),
    Nat.mod_eq_of_lt (by omega), httl'⟩

theorem regValue_performed (n : RegName) (s : State) (op : HostOp) (rest : List HostOp) :
    regValue n (s.performed op rest) = regValue n s := by
  cases n <;> rfl

/-- A written byte of a buffer reads as itself while the engine is idle (R67). -/
theorem readByte_of_idle {s : State} (he : s.engine = .idle) {sp : Space} {a : Nat} {b : Byte} (h : s.byteAt sp a = some b) :
    readByte sp a s = b := by
  rw [readByte, if_neg (by simp [State.busy, he]), show Table.read (s.memory sp) a = some b from h]

/-- Settles O49: the value is that of the access's target; in the window it is `regValue` of the register at the offset. -/
theorem hostReadsReturnTheValueAndChangeNothing : Obligations.HostReadsReturnTheValueAndChangeNothing := by
  intro s w a rest hh
  refine ⟨fun hl => ?refused, fun hl => ?_⟩
  case refused =>
    rw [step_of_hostRead hh]
    exact hostRead_eq_refused.2 (target_eq_none.2 hl)
  obtain ⟨tgt, ht⟩ := Option.ne_none_iff_exists'.1 (mt target_eq_none.1 (not_not_intro hl))
  refine ⟨readTarget tgt (s.performed (.read w a) rest), ?step, fun he => ?_⟩
  case step =>
    rw [step_of_hostRead hh, hostRead, ht]
    rfl
  have hreg : ∀ {o : Nat} {n : RegName}, a.toNat = o → regAt o = n → o < 0x1000 → o ≠ 0x004 →
      readTarget tgt (s.performed (.read w a) rest) = regValue n s := by
    rintro o n rfl rfl hlt hne
    obtain rfl : .register a.toNat = tgt := Option.some.inj ((target_of_window hl hlt).symm.trans ht)
    exact (readReg_of_idle (s := s.performed (.read w a) rest) (regAt_ne_status hne) he).trans (regValue_performed _ _ _ _)
  refine ⟨?plain, ?words, ?halves, fun ha hw => ?filler, fun hp x hx ha => ?cfg, fun q hq => ?txq, fun q hq => ?rxq,
    fun hlt hres => ?reserved, fun sp i b hi ha hb => ?byte⟩
  case plain =>
    simp only [List.forall_mem_cons, List.not_mem_nil, false_implies, implies_true, and_true]
    refine ⟨?_, ?_, ?_, ?_, ?_, ?_, ?_, ?_⟩ <;> exact fun ha => hreg ha rfl (by decide) (by decide)
  case words =>
    simp only [List.forall_mem_cons, List.not_mem_nil, false_implies, implies_true, and_true]
    refine ⟨?_, ?_, ?_, ?_, ?_, ?_, ?_, ?_⟩ <;>
      exact fun ha hw => (hreg ha rfl (by decide) (by decide)).trans (Reg.hostValue_word hw _)
  case halves =>
    simp only [List.forall_mem_cons, List.not_mem_nil, false_implies, implies_true, and_true]
    refine ⟨?_, ?_, ?_, ?_⟩ <;>
    · intro ha hw
      rw [hreg ha rfl (by decide) (by decide)]
      exact Reg.toNat_hostValue (by decide) hw _
  case filler =>
    rw [hreg ha rfl (by decide) (by decide)]
    exact Reg.toNat_hostValue (by decide) hw _
  case cfg =>
    have hoff : ∀ y ∈ [0x058, 0x05C, 0x060, 0x064, 0x068, 0x06C], y < 0x1000 ∧ y ≠ 0x004 := by decide
    obtain ⟨hlt, hne⟩ := hoff x.1 (List.mem_map_of_mem (f := Prod.fst) hx)
    rw [hreg ha rfl hlt hne]
    exact regValue_cfg hp x hx
  case txq =>
    obtain ⟨hhead, hcur, htail⟩ := regAt_txq hq
    simp only [List.forall_mem_cons, List.not_mem_nil, false_implies, implies_true, and_true]
    exact ⟨fun ha => (hreg ha hhead (by omega) (by omega)).trans (txPointer_eq _ _ _),
      fun ha => (hreg ha hcur (by omega) (by omega)).trans (txPointer_eq _ _ _),
      fun ha => (hreg ha htail (by omega) (by omega)).trans (txPointer_eq _ _ _)⟩
  case rxq =>
    obtain ⟨hhead, hcur, htail⟩ := regAt_rxq hq
    simp only [List.forall_mem_cons, List.not_mem_nil, false_implies, implies_true, and_true]
    exact ⟨fun ha => (hreg ha hhead (by omega) (by omega)).trans (rxPointer_eq _ _ _),
      fun ha => (hreg ha hcur (by omega) (by omega)).trans (rxPointer_eq _ _ _),
      fun ha => (hreg ha htail (by omega) (by omega)).trans (rxPointer_eq _ _ _)⟩
  case reserved =>
    rw [hreg rfl (regAt_reserved hres) hlt (by omega)]
    rfl
  case byte =>
    subst ha
    obtain rfl := width_of_byteAddr hl hi
    obtain rfl : .byte sp i = tgt := Option.some.inj ((target_byteAddr sp hi).symm.trans ht)
    rw [readTarget, readByte_of_idle (s := s.performed _ rest) he hb, BitVec.toNat_setWidth_of_le (by decide)]

end Sys2Proof.Machine

/-! SUPPORT. Decoding by the fields of R91: the decoder inverts the encoder, and rejects exactly the words of R96 (R92, R99). -/

namespace Sys2Proof

/-! ### A word and its fields -/

/-- The three fields of R91 are the whole word. -/
theorem toNat_eq_fields (w : Word) : w.toNat = reservedField w * 512 + spField w * 256 + opcField w := by
  unfold reservedField spField opcField
  omega

/-- OPC is bits 7:0 (R91). -/
theorem extractLsb'_opc_toNat (w : Word) : (w.extractLsb' 0 8).toNat = opcField w := by
  simp [opcField]

/-- SUBR and RSV are bits 31:9 (R91). -/
theorem extractLsb'_reserved_toNat (w : Word) : (w.extractLsb' 9 23).toNat = reservedField w := by
  have hw : w.toNat < 2 ^ 32 := w.isLt
  rw [BitVec.extractLsb'_toNat, Nat.shiftRight_eq_div_pow, reservedField]
  omega

/-- SP is bit 8 (R91). -/
theorem getLsbD_sp_iff (w : Word) : w.getLsbD 8 = true ↔ spField w ≠ 0 := by
  rw [BitVec.getLsbD, Nat.testBit_eq_decide_div_mod_eq, decide_eq_true_iff, spField]
  omega

/-! ### The decoder and the encoder -/

theorem decode_encode (i : Instr) : decode (encode i) = .ok i := by
  cases i with
  | csum sp => cases sp <;> decide
  | _ => decide

/-- The tests of R99 fix every field of an accepted word to the one R92's table gives its command. -/
theorem fields_of_decode_eq_ok {w : Word} {i : Instr} (h : decode w = .ok i) :
    reservedField w = reservedField (encode i) ∧ spField w = spField (encode i) ∧ opcField w = opcField (encode i) := by
  have hbit : spField w < 2 := Nat.mod_lt _ (by decide)
  unfold decode at h
  split_ifs at h with hres hcsum hfm hsp hwrapsum hbuild hsend hrecv hverify <;> cases h
  · exact ⟨not_not.1 hres, hfm, hcsum⟩
  · exact ⟨not_not.1 hres, show spField w = 1 by omega, hcsum⟩
  · exact ⟨not_not.1 hres, not_not.1 hsp, hwrapsum⟩
  · exact ⟨not_not.1 hres, not_not.1 hsp, hbuild⟩
  · exact ⟨not_not.1 hres, not_not.1 hsp, hsend⟩
  · exact ⟨not_not.1 hres, not_not.1 hsp, hrecv⟩
  · exact ⟨not_not.1 hres, not_not.1 hsp, hverify⟩

/-- A word that decodes to a command is that command's one word: the fields leave no other bit free. -/
theorem eq_encode_of_decode_eq_ok {w : Word} {i : Instr} (h : decode w = .ok i) : w = encode i := by
  obtain ⟨hres, hsp, hopc⟩ := fields_of_decode_eq_ok h
  apply BitVec.eq_of_toNat_eq
  rw [toNat_eq_fields w, toNat_eq_fields (encode i), hres, hsp, hopc]

theorem decode_eq_ok_iff (w : Word) (i : Instr) : decode w = .ok i ↔ w = encode i :=
  ⟨eq_encode_of_decode_eq_ok, fun h => h ▸ decode_encode i⟩

/-- The decoder rejects exactly on the fields R96 lists: a reserved bit, SP without CSUM's opcode, an opcode outside R92. -/
theorem decode_eq_error_iff (w : Word) :
    (∃ e, decode w = .error e) ↔
      opcField w = 0 ∨ 7 ≤ opcField w ∨ reservedField w ≠ 0 ∨ (spField w ≠ 0 ∧ opcField w ≠ 1) := by
  unfold decode
  split_ifs with hres hcsum hsp hwrapsum hbuild hsend hrecv hverify
  · exact iff_of_true ⟨_, rfl⟩ (.inr (.inr (.inl hres)))
  · exact iff_of_false (by simp) (by omega)
  · exact iff_of_true ⟨_, rfl⟩ (.inr (.inr (.inr ⟨hsp, hcsum⟩)))
  -- the five commands without a space
  iterate 5
    · exact iff_of_false (by simp) (by omega)
  · exact iff_of_true ⟨_, rfl⟩ (by omega)

/-! ### The obligations -/

/-- Settles O1, by the fields an accepted word must have. -/
theorem decodeAcceptsExactlyTheSevenWords : Obligations.DecodeAcceptsExactlyTheSevenWords :=
  ⟨decode_eq_ok_iff, rfl, rfl, rfl, rfl, rfl, rfl, rfl⟩

/-- Settles O2: R96's bits are the fields that the decoder tests. -/
theorem illegalWordsAreTheReservedOnes : Obligations.IllegalWordsAreTheReservedOnes := by
  intro w
  rw [decode_eq_error_iff, getLsbD_sp_iff]
  simp only [ne_eq, ← BitVec.toNat_inj, extractLsb'_opc_toNat, extractLsb'_reserved_toNat]
  rfl

/-- Settles O3, by running the decoder on the six words. -/
theorem tableWordsDecode : Obligations.TableWordsDecode := by
  refine ⟨?_, ?_, ?_, ?_, ?_, ?_⟩ <;> decide

end Sys2Proof

/-! SUPPORT. The arithmetic of the checksum: the fold in closed form, and the laws that follow from it (R110, R111, R114 to R119). -/

namespace Sys2Proof.Machine

/-! ### End-around sums -/

/-- The sum `n` with every carry out of 16 bits brought in at the low end: `n` modulo 0xFFFF, a nonzero multiple of 0xFFFF
being 0xFFFF (R115). -/
def endAround (n : Nat) : Nat := if n = 0 then 0 else 1 + (n - 1) % 0xFFFF

@[simp] theorem endAround_zero : endAround 0 = 0 := rfl

theorem endAround_le (n : Nat) : endAround n ≤ 0xFFFF := by
  unfold endAround
  split <;> omega

@[simp] theorem endAround_eq_zero_iff (n : Nat) : endAround n = 0 ↔ n = 0 := by
  unfold endAround
  split <;> omega

theorem endAround_mod (n : Nat) : endAround n % 0xFFFF = n % 0xFFFF := by
  unfold endAround
  split <;> omega

/-- The uniqueness in R115: a sum is known by its residue and by whether it is 0. -/
theorem eq_endAround {r n : Nat} (hle : r ≤ 0xFFFF) (hmod : r % 0xFFFF = n % 0xFFFF) (hzero : r = 0 ↔ n = 0) :
    r = endAround n := by
  have hle' := endAround_le n
  have hmod' := endAround_mod n
  have hzero' := endAround_eq_zero_iff n
  omega

theorem endAround_of_le {n : Nat} (h : n ≤ 0xFFFF) : endAround n = n := (eq_endAround h rfl .rfl).symm

theorem endAround_of_dvd {n : Nat} (h0 : n ≠ 0) (h : 0xFFFF ∣ n) : endAround n = 0xFFFF :=
  (eq_endAround le_rfl (by omega) (by omega)).symm

/-- A sum may be brought into 16 bits before the next number is added. -/
theorem endAround_endAround_add (m n : Nat) : endAround (endAround m + n) = endAround (m + n) := by
  have hmod := endAround_mod m
  have hzero := endAround_eq_zero_iff m
  apply eq_endAround (endAround_le _)
  · rw [endAround_mod]
    omega
  · rw [endAround_eq_zero_iff]
    omega

/-- One round of RFC 1071's carry folding keeps the end-around sum (R118). -/
theorem endAround_foldCarry (n : Nat) : endAround (n % 65536 + n / 65536) = endAround n := by
  apply eq_endAround (endAround_le _)
  · rw [endAround_mod]
    omega
  · rw [endAround_eq_zero_iff]
    omega

/-- RFC 1071's carry folding, given rounds enough, is the end-around sum (R118). -/
theorem foldCarries_eq_endAround {fuel n : Nat} (h : n ≤ fuel) : foldCarries fuel n = endAround n := by
  induction fuel generalizing n with
  | zero => rw [Nat.le_zero.1 h, foldCarries, endAround_zero]
  | succ fuel ih =>
    rw [foldCarries]
    split
    · rw [endAround_of_le (by assumption)]
    · rw [ih (by omega), endAround_foldCarry]

/-! ### Words and spans -/

theorem toNat_beWord (a b : Byte) : (beWord a b).toNat = a.toNat * 256 + b.toNat := by
  have ha := a.isLt
  have hb := b.isLt
  rw [beWord, BitVec.toNat_ofNat, Nat.mod_eq_of_lt (by omega)]

/-- A 16-bit value written big-endian counts as itself. -/
theorem wordSum_be16 (v : Half) : wordSum (be16 v) = v.toNat := by
  have hv := v.isLt
  simp only [be16, wordSum, BitVec.extractLsb'_toNat, Nat.shiftRight_eq_div_pow]
  omega

/-- A span of even length has no padded word, so what follows it keeps its words (R116). -/
theorem wordSum_append {d : List Byte} (hd : d.length % 2 = 0) (e : List Byte) :
    wordSum (d ++ e) = wordSum d + wordSum e := by
  fun_induction wordSum d with
  | case1 => simp
  | case2 a => simp at hd
  | case3 a b rest ih =>
    have hrest : rest.length % 2 = 0 := by simpa [Nat.add_assoc] using hd
    rw [List.cons_append, List.cons_append, wordSum, ih hrest, ← Nat.add_assoc]

theorem toNat_eq_zero_iff {n : Nat} {x : BitVec n} : x.toNat = 0 ↔ x = 0 := BitVec.toNat_inj (y := 0#n)

/-- The word sum is 0 only over zero bytes (R115). -/
theorem wordSum_eq_zero_iff (d : List Byte) : wordSum d = 0 ↔ ∀ b ∈ d, b = 0 := by
  fun_induction wordSum d with
  | case1 => simp
  | case2 a => simp [toNat_eq_zero_iff]
  | case3 a b rest ih => simp [toNat_eq_zero_iff, ih, and_assoc]

/-! ### The fold -/

/-- One addition, for every 32-bit running sum (R110, R120). -/
theorem toNat_ckAdd (s w : Word) :
    (ckAdd s w).toNat =
      if 0xFFFF < (s.toNat + w.toNat) % 2 ^ 32 then (s.toNat + w.toNat) % 2 ^ 32 - 0xFFFF
      else (s.toNat + w.toNat) % 2 ^ 32 := by
  unfold ckAdd
  rw [BitVec.toNat_add]
  split
  · rw [BitVec.toNat_sub_of_le (by bv_omega), BitVec.toNat_add]
    rfl
  · exact BitVec.toNat_add ..

/-- Within 16 bits one subtraction of 0xFFFF is the end-around carry (R114). -/
theorem toNat_ckAdd_beWord {s : Word} (hs : s.toNat ≤ 0xFFFF) (a b : Byte) :
    (ckAdd s (beWord a b)).toNat = endAround (s.toNat + (a.toNat * 256 + b.toNat)) := by
  have ha := a.isLt
  have hb := b.isLt
  rw [toNat_ckAdd, toNat_beWord, Nat.mod_eq_of_lt (by omega)]
  split <;> apply eq_endAround <;> omega

/-- The closed form of R115. -/
theorem toNat_ck {s : Word} (hs : s.toNat ≤ 0xFFFF) (d : List Byte) : (ck d s).toNat = endAround (s.toNat + wordSum d) := by
  fun_induction ck d s with
  | case1 s => rw [wordSum, Nat.add_zero, endAround_of_le hs]
  | case2 s a => simpa [wordSum] using toNat_ckAdd_beWord hs a 0
  | case3 s a b rest ih =>
    have hadd := toNat_ckAdd_beWord hs a b
    rw [ih (hadd ▸ endAround_le _), hadd, endAround_endAround_add, wordSum, Nat.add_assoc]

/-- The range of R114. -/
theorem toNat_ck_le {s : Word} (hs : s.toNat ≤ 0xFFFF) (d : List Byte) : (ck d s).toNat ≤ 0xFFFF :=
  toNat_ck hs d ▸ endAround_le _

/-- A span of even length folds word by word into what follows it, whatever the seed (R116). -/
theorem ck_append {d : List Byte} (hd : d.length % 2 = 0) (e : List Byte) (s : Word) : ck (d ++ e) s = ck e (ck d s) := by
  fun_induction ck d s with
  | case1 s => rfl
  | case2 s a => simp at hd
  | case3 s a b rest ih => exact ih (by simpa [Nat.add_assoc] using hd)

/-- Several spans folded one after the other: the closed form over all their words (R116). -/
theorem toNat_foldl_ck {s : Word} (hs : s.toNat ≤ 0xFFFF) (ds : List (List Byte)) :
    (ds.foldl (fun a d => ck d a) s).toNat = endAround (s.toNat + (ds.map wordSum).sum) := by
  induction ds generalizing s with
  | nil => exact (endAround_of_le hs).symm
  | cons d ds ih =>
    rw [List.foldl_cons, ih (toNat_ck_le hs d), toNat_ck hs, endAround_endAround_add, List.map_cons, List.sum_cons,
      Nat.add_assoc]

/-! ### The complement -/

theorem wrap_eq_not_ofNat (s : Word) : wrap s = ~~~BitVec.ofNat 16 s.toNat := by
  rw [wrap, ← BitVec.setWidth_eq_extractLsb' (by decide)]
  rfl

/-- The complement of a 16-bit sum is what it lacks to 0xFFFF (R111). -/
theorem toNat_wrap_of_le {s : Word} (hs : s.toNat ≤ 0xFFFF) : (wrap s).toNat = 0xFFFF - s.toNat := by
  rw [wrap_eq_not_ofNat, BitVec.toNat_not, BitVec.toNat_ofNat, Nat.mod_eq_of_lt (by omega)]

/-- R119: with the checksum in the field of `pre` and `post` that was 0, the sum is 0xFFFF. -/
theorem ck_of_filled {pre post : List Byte} {s : Word} (hpre : pre.length % 2 = 0) (hs : s.toNat ≤ 0xFFFF) :
    ck (pre ++ be16 (wrap (ck (pre ++ [0, 0] ++ post) s)) ++ post) s = 0xFFFF := by
  have wordSum_field (v : Half) : wordSum (pre ++ be16 v ++ post) = wordSum pre + wordSum post + v.toNat := by
    rw [wordSum_append (by simpa [be16] using hpre), wordSum_append hpre, wordSum_be16]
    omega
  have hclear : (ck (pre ++ [0, 0] ++ post) s).toNat = endAround (s.toNat + (wordSum pre + wordSum post)) := by
    rw [toNat_ck hs]
    exact congrArg (fun n => endAround (s.toNat + n)) (wordSum_field 0)
  have hwrap := toNat_wrap_of_le (toNat_ck_le hs (pre ++ [0, 0] ++ post))
  generalize wrap _ = c at hwrap ⊢
  apply BitVec.eq_of_toNat_eq
  calc (ck (pre ++ be16 c ++ post) s).toNat
      = endAround (s.toNat + (wordSum pre + wordSum post) + c.toNat) := by
        rw [toNat_ck hs, wordSum_field, ← Nat.add_assoc]
    _ = endAround (endAround (s.toNat + (wordSum pre + wordSum post)) + c.toNat) := (endAround_endAround_add _ _).symm
    _ = endAround 0xFFFF := by
        rw [hwrap, hclear, Nat.add_sub_cancel' (endAround_le _)]
    _ = (0xFFFF : Word).toNat := endAround_of_le le_rfl

/-! ### The obligations -/

/-- Settles O9, from the closed form. -/
theorem checksumStaysInSixteenBits : Obligations.ChecksumStaysInSixteenBits :=
  ⟨fun d _ hs => toNat_ck_le hs d, fun l _ _ => by omega⟩

/-- Settles O10, from the closed form and what it says of a sum that is 0 or a multiple of 0xFFFF. -/
theorem checksumClosedForm : Obligations.ChecksumClosedForm := by
  intro d s hs
  have hck := toNat_ck hs d
  refine ⟨hck, ?_, fun h0 hdvd => ?_⟩
  · calc ck d s = 0
        ↔ (ck d s).toNat = 0 := toNat_eq_zero_iff.symm
      _ ↔ s.toNat = 0 ∧ wordSum d = 0 := by rw [hck, endAround_eq_zero_iff, Nat.add_eq_zero_iff]
      _ ↔ s = 0 ∧ ∀ b ∈ d, b = 0 := and_congr toNat_eq_zero_iff (wordSum_eq_zero_iff d)
  · exact BitVec.eq_of_toNat_eq (hck.trans (endAround_of_dvd h0 hdvd))

/-- Settles O11: the order by the sum over all words, the split by the fold itself. -/
theorem checksumOrderAndEvenSplits : Obligations.ChecksumOrderAndEvenSplits := by
  intro s hs
  refine ⟨fun ds es hperm => ?_, fun d k hk heven => ?_⟩
  · apply BitVec.eq_of_toNat_eq
    rw [toNat_foldl_ck hs, toNat_foldl_ck hs, (hperm.map wordSum).sum_eq]
  · have htake : (d.take k).length % 2 = 0 := by rwa [List.length_take_of_le hk]
    rw [← ck_append htake, List.take_append_drop]

/-- Settles O12: both folds are the end-around sum of the words. -/
theorem checksumIsRfc1071 : Obligations.ChecksumIsRfc1071 := by
  intro d
  have hck : (ck d 0).toNat = endAround (wordSum d) := by
    simp [toNat_ck]
  rw [wrap_eq_not_ofNat, hck, rfc1071, foldCarries_eq_endAround le_rfl]

/-- Settles O13. -/
theorem filledChecksumFieldValidates : Obligations.FilledChecksumFieldValidates := by
  intro pre post s hpre hs
  rw [ck_of_filled hpre hs]
  exact ⟨rfl, by decide⟩

/-- Settles O14: what CSUM answers, and one addition for every seed. -/
theorem csumFoldsItsSpan : Obligations.CsumFoldsItsSpan := by
  refine ⟨fun s sp d hle hl hd => exec_csum_of_holds hle hl hd, fun seed a b rest => ?_⟩
  have hword : (ck [a, b] seed).toNat = _ := toNat_ckAdd seed (beWord a b)
  rw [toNat_beWord] at hword
  exact ⟨rfl, rfl, rfl, fun h => hword.trans (if_pos h), fun h => hword.trans (if_neg (by omega))⟩

/-- Settles O16. -/
theorem wrapsumComplementsTheLowHalf : Obligations.WrapsumComplementsTheLowHalf := exec_wrapsum

end Sys2Proof.Machine

/-! SUPPORT. BUILD (41_builder.md): the frame as it stands in FM, and the two sums over it. -/

namespace Sys2Proof.Machine

/-! ### Runs of bytes in FM -/

/-- A run of bytes stands in a buffer exactly when its two parts stand there one after the other. -/
theorem State.holds_append {t : State} {sp : Space} {off : Nat} {d e : List Byte} :
    t.holds sp off (d ++ e) ↔ t.holds sp off d ∧ t.holds sp (off + d.length) e := by
  refine ⟨fun h => ⟨fun i hi => ?_, fun i hi => ?_⟩, fun ⟨hd, he⟩ i hi => ?_⟩
  · rw [h i (by rw [List.length_append]; omega), List.getElem?_append_left hi]
  · rw [Nat.add_assoc, h (d.length + i) (by rw [List.length_append]; omega),
      List.getElem?_append_right (Nat.le_add_right ..), Nat.add_sub_cancel_left]
  · by_cases hid : i < d.length
    · rw [hd i hid, List.getElem?_append_left hid]
    · rw [List.length_append] at hi
      have hi' := he (i - d.length) (by omega)
      rwa [Nat.add_assoc, Nat.add_sub_cancel' (by omega), ← List.getElem?_append_right (by omega)] at hi'

/-- A span of FM whose bytes stand written consists of them. -/
theorem State.fmSpan_of_holds {t : State} {off n : Nat} {d : List Byte} (h : t.holds .fm off d) (hn : d.length = n) :
    t.fmSpan off n = d := by
  subst hn
  apply List.ext_getElem
  · simp [State.fmSpan]
  · intro i _ hi
    simp [State.fmSpan, h i hi, hi]

/-! ### The frame (R141) -/

/-- The IPv4 header's bytes before its checksum field, `FM[14:24]` (R144). -/
def ipHead (p : Params) (l : Nat) : List Byte :=
  [0x45, 0x00] ++ be16 (BitVec.ofNat 16 (l - 14)) ++ be16 0x0000 ++ be16 0x4000 ++ [BitVec.ofNat 8 p.ipTtl, 17]

/-- The UDP header's bytes before its checksum field, `FM[34:40]` (R146). -/
def udpHead (f : FrameFields) (l : Nat) : List Byte :=
  be16 f.srcPort ++ be16 f.dstPort ++ be16 (BitVec.ofNat 16 (l - 34))

theorem ipHeader_eq (p : Params) (f : FrameFields) (l : Nat) (csum : Half) :
    ipHeader p f l csum = ipHead p l ++ be16 csum ++ addresses f := rfl

theorem udpHeader_eq (f : FrameFields) (l : Nat) (csum : Half) : udpHeader f l csum = udpHead f l ++ be16 csum := rfl

@[simp] theorem length_addresses (f : FrameFields) : (addresses f).length = 8 := rfl

@[simp] theorem length_ipHead (p : Params) (l : Nat) : (ipHead p l).length = 10 := rfl

@[simp] theorem length_udpHead (f : FrameFields) (l : Nat) : (udpHead f l).length = 6 := rfl

@[simp] theorem length_payload (f : FrameFields) (l : Nat) : (payload f l).length = l - 42 := List.length_replicate

/-- The frame of the fields `f`, of length `l`, stands in FM, part by part (R141). -/
structure State.HoldsFrame (t : State) (p : Params) (f : FrameFields) (l : Nat) : Prop where
  ethAt : t.holds .fm 0 (ethHeader f)
  ipHeadAt : t.holds .fm 14 (ipHead p l)
  ipChecksumAt : t.holds .fm 24 (be16 (ipChecksum p f l))
  addressesAt : t.holds .fm 26 (addresses f)
  udpHeadAt : t.holds .fm 34 (udpHead f l)
  udpChecksumAt : t.holds .fm 40 (be16 (udpChecksum f l))
  payloadAt : t.holds .fm 42 (payload f l)

theorem State.holdsFrame_of_holds {t : State} {p : Params} {f : FrameFields} {l : Nat}
    (h : t.holds .fm 0 (frameBytes p f l)) : t.HoldsFrame p f l := by
  simp only [frameBytes, ipHeader_eq, udpHeader_eq, State.holds_append] at h
  obtain ⟨⟨⟨heth, ⟨hip, hipc⟩, haddr⟩, hudp, hudpc⟩, hpay⟩ := h
  exact ⟨heth, hip, hipc, haddr, hudp, hudpc, hpay⟩

section
variable {t : State} {p : Params} {f : FrameFields} {l : Nat}

/-- The whole IPv4 header, `FM[14:34]`. -/
theorem State.HoldsFrame.fmSpan_ipHeader (h : t.HoldsFrame p f l) :
    t.fmSpan 14 20 = ipHead p l ++ be16 (ipChecksum p f l) ++ addresses f :=
  State.fmSpan_of_holds (State.holds_append.2 ⟨State.holds_append.2 ⟨h.ipHeadAt, h.ipChecksumAt⟩, h.addressesAt⟩) rfl

/-- The UDP datagram, `FM[34:L]`. -/
theorem State.HoldsFrame.fmSpan_datagram (h : t.HoldsFrame p f l) (hl : 42 ≤ l) :
    t.fmSpan 34 (l - 34) = udpHead f l ++ be16 (udpChecksum f l) ++ payload f l := by
  refine State.fmSpan_of_holds (State.holds_append.2 ⟨State.holds_append.2 ⟨h.udpHeadAt, h.udpChecksumAt⟩, h.payloadAt⟩) ?_
  simp
  omega

theorem State.HoldsFrame.fmSpan_addresses (h : t.HoldsFrame p f l) : t.fmSpan 26 8 = addresses f :=
  State.fmSpan_of_holds h.addressesAt rfl

end

/-- The frame depends on the parameters through IP_TTL alone (R152). -/
theorem ipHeader_congr {p q : Params} (h : p.ipTtl = q.ipTtl) : ipHeader p = ipHeader q := by
  funext f l csum
  simp only [ipHeader, h]

/-! ### The two sums (R145, R148) -/

/-- The IP header checksum, with the field that is 0 while it is computed written out (R145). -/
theorem ipChecksum_eq (p : Params) (f : FrameFields) (l : Nat) :
    ipChecksum p f l = wrap (ck (ipHead p l ++ [0, 0] ++ addresses f) 0) := rfl

/-- The seed of the UDP sum is a 16-bit number (R114). -/
theorem toNat_udpSeed {l : Nat} (h1 : 42 ≤ l) (h2 : l ≤ 65536) : (BitVec.ofNat 32 (17 + (l - 34))).toNat = 17 + (l - 34) := by
  rw [BitVec.toNat_ofNat, Nat.mod_eq_of_lt (by omega)]

/-- Two spans fold in either order (R116). -/
theorem ck_comm {s : Word} (hs : s.toNat ≤ 0xFFFF) (d e : List Byte) : ck e (ck d s) = ck d (ck e s) :=
  (checksumOrderAndEvenSplits s hs).1 [d, e] [e, d] (List.Perm.swap ..)

/-- The running sum of the UDP checksum past the pseudo-header: seed and addresses (R148). -/
def pseudoSum (f : FrameFields) (l : Nat) : Word := ck (addresses f) (BitVec.ofNat 32 (17 + (l - 34)))

theorem toNat_pseudoSum_le (f : FrameFields) {l : Nat} (h1 : 42 ≤ l) (h2 : l ≤ 65536) : (pseudoSum f l).toNat ≤ 0xFFFF :=
  toNat_ck_le (by rw [toNat_udpSeed h1 h2]; omega) _

/-- BUILD folds the payload before the header; the sum is that of the datagram in its own order (R148). -/
theorem udpChecksum_eq (f : FrameFields) {l : Nat} (h1 : 42 ≤ l) (h2 : l ≤ 65536) :
    udpChecksum f l = wrap (ck (udpHead f l ++ [0, 0] ++ payload f l) (pseudoSum f l)) := by
  rw [ck_append (by simp), ck_comm (toNat_pseudoSum_le f h1 h2)]
  rfl

/-- The running sum past the pseudo-header is that of its bytes written out, with the zero byte, the protocol and the UDP length
(R148). -/
theorem pseudoSum_eq (f : FrameFields) {l : Nat} (h1 : 42 ≤ l) (h2 : l ≤ 65536) :
    pseudoSum f l = ck (addresses f ++ [0, 17] ++ be16 (BitVec.ofNat 16 (l - 34))) 0 := by
  have hlen : (BitVec.ofNat 16 (l - 34)).toNat = l - 34 := by
    rw [BitVec.toNat_ofNat, Nat.mod_eq_of_lt (by omega)]
  have hwords : wordSum (addresses f ++ [0, 17] ++ be16 (BitVec.ofNat 16 (l - 34))) = wordSum (addresses f) + 17 + (l - 34) := by
    rw [wordSum_append (by simp), wordSum_append (by simp), wordSum_be16, hlen]
    rfl
  apply BitVec.eq_of_toNat_eq
  rw [pseudoSum, toNat_ck (by rw [toNat_udpSeed h1 h2]; omega), toNat_ck (by decide), hwords, toNat_udpSeed h1 h2]
  congr 1
  simp
  omega

/-! ### BUILD, exactly (R140) -/

/-- BUILD of a legal length goes on to this state. -/
theorem exec_build_of_legal {s t : State} (h1 : 42 ≤ s.spec.frameLen.value.toNat) (h2 : s.spec.frameLen.value.toNat ≤ 65536)
    (h : exec .build s = .next t) :
    t = { layOut s.spec.fields s.spec.frameLen.value.toNat s with
      engine := .idle, done := true
      code := if s.spec.marked then .ok else s.code
      faulted := s.faulted || !s.spec.marked } := by
  rcases execBuild_eq_next h with ⟨hl, -⟩ | ⟨-, -, ht⟩
  · omega
  · exact ht

/-- The checksums of the frame are BUILD's results (R150). -/
theorem exec_build_results {s t : State} (h1 : 42 ≤ s.spec.frameLen.value.toNat) (h2 : s.spec.frameLen.value.toNat ≤ 65536)
    (h : exec .build s = .next t) :
    t.result0 = (ipChecksum s.cfg s.spec.fields s.spec.frameLen.value.toNat).setWidth 32 ∧
    t.result1 = (udpChecksum s.spec.fields s.spec.frameLen.value.toNat).setWidth 32 := by
  rw [exec_build_of_legal h1 h2 h]
  exact ⟨rfl, rfl⟩

/-- BUILD of an illegal length goes on to the outcome of the length check (R142, R248). -/
theorem exec_build_of_illegal {s : State} (h : s.spec.frameLen.value.toNat < 42 ∨ 65536 < s.spec.frameLen.value.toNat) :
    exec .build s = .next (outcome s.spec.frameLen.written (fun t => halt .layoutOverflow (forgetFrame t))
      (recordReads s.spec.frameLen.written s)) := if_pos h

section
variable {s t : State} (hw : Memory.wf 65536 s.fm) (h1 : 42 ≤ s.spec.frameLen.value.toNat)
  (h2 : s.spec.frameLen.value.toNat ≤ 65536) (h : exec .build s = .next t)
include hw h1 h2 h

/-- BUILD writes `FM[0:L]` and no other byte (R151). -/
theorem byteAt_exec_build (a : Nat) :
    t.byteAt .fm a = if a < s.spec.frameLen.value.toNat then (frameBytes s.cfg s.spec.fields s.spec.frameLen.value.toNat)[a]?
      else s.byteAt .fm a := by
  rw [exec_build_of_legal h1 h2 h]
  refine (Table.read_writeRun hw.1 0 _ a).trans ?_
  rw [length_frameBytes s.cfg s.spec.fields h1, Nat.zero_add, Nat.sub_zero]
  simp only [Nat.zero_le, true_and]
  rfl

theorem holdsFrame_exec_build : t.HoldsFrame s.cfg s.spec.fields s.spec.frameLen.value.toNat := by
  apply State.holdsFrame_of_holds
  intro i hi
  rw [length_frameBytes _ _ h1] at hi
  rw [Nat.zero_add, byteAt_exec_build hw h1 h2 h, if_pos hi]

end

/-! ### The obligations -/

/-- Settles O23, by the two outcomes of the length check. -/
theorem buildRejectsIllegalLengths : Obligations.BuildRejectsIllegalLengths := by
  intro s hl
  have h := exec_build_of_illegal hl
  rw [outcome_halt_forgetFrame] at h
  exact ⟨fun hm => ⟨_, h, by simp [hm]⟩, fun hm => by simp [h, hm]⟩

/-- Settles O21: the record BUILD goes on to, and the bytes of FM it keeps. -/
theorem buildChangesOnlyTheFrame : Obligations.BuildChangesOnlyTheFrame := by
  intro s t hw h1 h2 h
  refine ⟨?_, fun a ha => ?_⟩
  · rw [exec_build_of_legal h1 h2 h]
    rfl
  · rw [byteAt_exec_build hw h1 h2 h, if_neg (by omega)]

/-- Settles O22: the frame and its checksums take IP_TTL and the PacketSpec registers alone. -/
theorem buildDependsOnlyOnThePacketSpec : Obligations.BuildDependsOnlyOnThePacketSpec := by
  intro s₁ s₂ t₁ t₂ hspec httl hw₁ hw₂ h1₁ h2₁ hb₁ hb₂
  have h1₂ := hspec ▸ h1₁
  have h2₂ := hspec ▸ h2₁
  have hip := ipHeader_congr httl
  obtain ⟨hipc₁, hudpc₁⟩ := exec_build_results h1₁ h2₁ hb₁
  obtain ⟨hipc₂, hudpc₂⟩ := exec_build_results h1₂ h2₂ hb₂
  refine ⟨fun hm => ?_, ?_, ?_, ?_, fun a ha => ?_⟩
  · rw [exec_build_of_legal h1₁ h2₁ hb₁, exec_build_of_legal h1₂ h2₂ hb₂]
    exact ⟨if_pos hm, if_pos (hspec ▸ hm)⟩
  · rw [exec_build_fmLen h1₁ h2₁ hb₁, exec_build_fmLen h1₂ h2₂ hb₂, hspec]
  · rw [hipc₁, hipc₂, ipChecksum, ipChecksum, hip, hspec]
  · rw [hudpc₁, hudpc₂, hspec]
  · rw [byteAt_exec_build hw₁ h1₁ h2₁ hb₁, byteAt_exec_build hw₂ h1₂ h2₂ hb₂, if_pos ha, if_pos (hspec ▸ ha)]
    simp only [frameBytes, ipChecksum, hip, hspec]

/-- Settles O19: in the frame as it stands each checksum field is filled as R119 asks. -/
theorem builtChecksumsValidate : Obligations.BuiltChecksumsValidate := by
  intro s t hw h1 h2 h
  have hf := holdsFrame_exec_build hw h1 h2 h
  have hip : ck (t.fmSpan 14 20) 0 = 0xFFFF := by
    rw [hf.fmSpan_ipHeader, ipChecksum_eq]
    exact ck_of_filled (by simp) (by decide)
  have hudp : ck (t.fmSpan 34 (s.spec.frameLen.value.toNat - 34))
      (pseudoSum s.spec.fields s.spec.frameLen.value.toNat) = 0xFFFF := by
    rw [hf.fmSpan_datagram h1, udpChecksum_eq _ h1 h2]
    exact ck_of_filled (by simp) (toNat_pseudoSum_le _ h1 h2)
  rw [exec_build_fmLen h1 h2 h, hf.fmSpan_addresses, ← pseudoSum, hip, hudp]
  decide

/-- Settles O20: the pseudo-header's words are the seed and the addresses, and the datagram goes on from there. -/
theorem builtUdpChecksumIsRfc768 : Obligations.BuiltUdpChecksumIsRfc768 := by
  intro s t hw h1 h2 h
  obtain ⟨-, hudpc⟩ := exec_build_results h1 h2 h
  rw [hudpc, exec_build_fmLen h1 h2 h, udpChecksum_eq _ h1 h2, pseudoSum_eq _ h1 h2, ← ck_append (by simp), checksumIsRfc1071]
  simp only [udpHead, addresses, payload, List.append_assoc]
  rfl

/-- Settles O18: FM holds the frame part by part, and each part is the run of its fields. -/
theorem buildLaysOutTheFrame : Obligations.BuildLaysOutTheFrame := by
  intro s hw h1 h2
  obtain ⟨t, h⟩ := exec_build_goes_on s
  have hf := holdsFrame_exec_build hw h1 h2 h
  have heth := hf.ethAt
  have hip := hf.ipHeadAt
  have haddr := hf.addressesAt
  have hudp := hf.udpHeadAt
  simp only [ethHeader, macBytes, ipHead, addresses, udpHead, State.holds_append] at heth hip haddr hudp
  obtain ⟨⟨⟨hdh, hdl⟩, hsh, hsl⟩, htype⟩ := heth
  obtain ⟨⟨⟨⟨hversion, hlength⟩, hid⟩, hflags⟩, httl⟩ := hip
  obtain ⟨hsrc, hdst⟩ := haddr
  obtain ⟨⟨hsport, hdport⟩, hulen⟩ := hudp
  refine ⟨t, ipChecksum s.cfg s.spec.fields s.spec.frameLen.value.toNat, udpChecksum s.spec.fields s.spec.frameLen.value.toNat, h,
    State.holds_append.2 ⟨hdh, hdl⟩, State.holds_append.2 ⟨hsh, hsl⟩, htype, hversion, hlength, hid, hflags, httl,
    hf.ipChecksumAt, hsrc, hdst, hsport, hdport, hulen, hf.udpChecksumAt, ?_, ?_, ?_, exec_build_fmLen h1 h2 h, ?_⟩
  · intro a ha hl
    have hbyte := hf.payloadAt (a - 42) (by rw [length_payload]; omega)
    rwa [Nat.add_sub_cancel' ha, payload, List.getElem?_replicate_of_lt (by omega)] at hbyte
  · rw [State.fmSpan_of_holds hf.ipHeadAt (length_ipHead ..), hf.fmSpan_addresses, ipChecksum_eq]
  · rw [State.fmSpan_of_holds hf.udpHeadAt (length_udpHead ..), State.fmSpan_of_holds hf.payloadAt (length_payload ..),
      hf.fmSpan_addresses]
    rfl
  · rw [exec_build_of_legal h1 h2 h]
    exact ⟨rfl, rfl, rfl, rfl, rfl, rfl, rfl, rfl⟩

end Sys2Proof.Machine

/-! SUPPORT. The two syncs (R176 to R178): the events handed over, the bytes published, every queue by itself. -/

namespace Sys2Proof.Machine

/-! ### sync(TX) -/

/-- A hand-over makes one transmit event for each slot (R177). -/
@[simp] theorem length_handOver (n q : Nat) (slots : Table Slot) (k : Nat) (i : Word) : (handOver n q slots k i).length = k := by
  induction k generalizing i with
  | zero => rfl
  | succ k ih => rw [handOver_succ, List.length_cons, ih]

/-- The event of a written slot among those handed over is that slot's bytes and flags (R177). -/
theorem getElem?_handOver {n : Nat} (h0 : 0 < n) (h1 : n ≤ 65536) (q : Nat) (slots : Table Slot) {k j : Nat} (hj : j < k) {i : Word}
    (hi : i.toNat < n) {sl : Slot} (hsl : Table.read slots (ringAdd n i j).toNat = some sl) {d : List Byte}
    (hlen : sl.len.toNat = d.length) (hd : ∀ x < d.length, Table.read sl.buf x = d[x]?) :
    (handOver n q slots k i)[j]? = some { bytes := d, flags := sl.flags } := by
  induction k generalizing i j with
  | zero => omega
  | succ k ih =>
    rw [handOver_succ]
    cases j with
    | zero =>
      rw [ringAdd_zero hi] at hsl
      rw [List.getElem?_cons_zero, slotAt_eq_of_read hsl, hlen, Slot.bytes_eq hd]
    | succ j =>
      refine ih (by omega) (ringAdd_lt h0 h1 i 1) ?_
      rwa [ringAdd_ringAdd h0 h1, Nat.add_comm 1 j]

/-- Between two slot indices the gap is the remainder R172 writes. -/
theorem ringGap_of_lt {n : Nat} {head : Word} (hh : head.toNat < n) (tail : Word) :
    ringGap n head tail = (tail.toNat + (n - head.toNat)) % n := by
  rw [ringGap, Nat.mod_eq_of_lt hh]

/-- One sync covers every transmit queue, each with its own number (R176). -/
theorem getElem?_syncTx (s : State) (i : Nat) :
    (syncTx s).txq[i]? = s.txq[i]?.map fun t => t.sync s.cfg.numSlots i (s.env.takeTx.1[i]?.getD 0) := by
  simp [getElem?_syncTxFrom]

/-- What a sync leaves of a transmit queue is that queue synced. -/
theorem eq_sync_of_syncTx {s : State} {i : Nat} {t t' : TxQueue} (ht : s.txq[i]? = some t) (ht' : (syncTx s).txq[i]? = some t') :
    t' = t.sync s.cfg.numSlots i (s.env.takeTx.1[i]?.getD 0) := by
  rw [getElem?_syncTx, ht] at ht'
  exact (Option.some.inj ht').symm

theorem Env.takeTx_of_cons {e : Env} {c : TxChoice} {rest : List TxChoice} (h : e.txScript = c :: rest) :
    e.takeTx = (c, { e with txScript := rest }) := by
  rw [Env.takeTx, h]

/-- Settles O25: a queue's sync by the ring's arithmetic and the events it hands over, all queues by the scan over them. -/
theorem syncTxCompletesWithinInflight : Obligations.SyncTxCompletesWithinInflight := by
  refine ⟨fun p t q k hp hh ht hw => ?_, fun s => ⟨rfl, getElem?_syncTx s, fun _ _ => Env.takeTx_of_cons⟩⟩
  have hn := hp.2.2.1
  have h0 : 0 < p.numSlots := by omega
  have hfree := TxQueue.free_sync h0 hn.2 hh ht q k
  have hsum := t.free_add_inflight h0
  refine ⟨hfree, by omega, ringAdd_toNat h0 hn.2 _ _, rfl, rfl, rfl, rfl, _, rfl, ?_, fun j hj sl d hsl hlen hd => ?_⟩
  · rw [length_handOver, ringGap_of_lt hw]
  · rw [length_handOver] at hj
    exact getElem?_handOver h0 hn.2 q t.slots hj hw (by rwa [ringAdd_toNat h0 hn.2]) hlen.symm hd

/-! ### sync(RX) -/

/-- The bytes a slot choice publishes are its own, then zeros (R178). -/
theorem getElem?_choiceBytes {size x : Nat} {c : SlotChoice} (hx : x < min c.len.toNat size) :
    (choiceBytes size c)[x]? = some (c.bytes[x]?.getD 0) := by
  by_cases hb : x < c.bytes.length
  · rw [choiceBytes, List.getElem?_append_left (by rw [List.length_take]; omega), List.getElem?_take, if_pos hx,
      List.getElem?_eq_getElem hb]
    rfl
  · rw [choiceBytes, List.getElem?_append_right (by rw [List.length_take]; omega),
      List.getElem?_replicate_of_lt (by rw [List.length_take]; omega), List.getElem?_eq_none (by omega)]
    rfl

/-- One sync covers every receive queue, each with its own choice (R176). -/
theorem getElem?_syncRx (s : State) (i : Nat) :
    (syncRx s).rxq[i]? = s.rxq[i]?.map fun r => r.sync s.cfg.numSlots s.cfg.slotBufSize i (s.env.takeRx.1[i]?.getD []) := by
  simp [getElem?_syncRxFrom]

/-- What a sync leaves of a receive queue is that queue synced. -/
theorem eq_sync_of_syncRx {s : State} {i : Nat} {r r' : RxQueue} (hr : s.rxq[i]? = some r) (hr' : (syncRx s).rxq[i]? = some r') :
    r' = r.sync s.cfg.numSlots s.cfg.slotBufSize i (s.env.takeRx.1[i]?.getD []) := by
  rw [getElem?_syncRx, hr] at hr'
  exact (Option.some.inj hr').symm

theorem Env.takeRx_of_cons {e : Env} {c : RxChoice} {rest : List RxChoice} (h : e.rxScript = c :: rest) :
    e.takeRx = (c, { e with rxScript := rest }) := by
  rw [Env.takeRx, h]

/-- Settles O26: the published slots lie from TAIL on within the room left, so they are none of the pending ones. -/
theorem syncRxNeverOverwritesPendingSlots : Obligations.SyncRxNeverOverwritesPendingSlots := by
  refine ⟨fun p r q cs hp hr => ?_, fun s => ⟨rfl, getElem?_syncRx s, fun _ _ => Env.takeRx_of_cons⟩⟩
  have hn := hp.2.2.1
  have h0 : 0 < p.numSlots := by omega
  obtain ⟨-, hhead, htail, hslots, hbufs⟩ := id hr
  have htaken : (cs.take (p.numSlots - 1 - r.pending p.numSlots)).length =
      min cs.length (p.numSlots - 1 - r.pending p.numSlots) := by rw [List.length_take, Nat.min_comm]
  refine ⟨RxQueue.pending_sync h0 hn.2 hhead htail _ q cs, ?_, rfl, rfl, fun j hj => RxQueue.read_sync_of_pending hp hr q cs hj,
    fun j c hc hj => ?_, fun i hi => ?_⟩
  · rw [RxQueue.sync_tail, ringAdd_toNat h0 hn.2, htaken]
  · obtain ⟨sl, hsl, hlen, hflags, hin, hout⟩ := read_publish h0 hn.2 q (cs.take (p.numSlots - 1 - r.pending p.numSlots))
      htail hslots hbufs (size := p.slotBufSize) (by omega) (by rw [List.getElem?_take, if_pos hj, hc])
    rw [ringAdd_toNat h0 hn.2] at hsl hout
    exact ⟨sl, hsl, hlen, hflags, fun x hx => by rw [hin x hx, getElem?_choiceBytes hx], hout⟩
  · refine read_publish_of_ne h0 hn.2 q _ htail hslots fun j hj => ?_
    rw [ringAdd_toNat h0 hn.2]
    exact hi j (htaken ▸ hj)

end Sys2Proof.Machine

/-! SUPPORT. The passes of SEND (R181 to R184) and its sleep (R179). -/

namespace Sys2Proof.Machine

/-! ### The slot SEND fills -/

/-- Filling writes the slot at HEAD and no other (R182). -/
theorem TxQueue.read_filled {p : Params} {t : TxQueue} (ht : t.inv p) (q : Nat) (d : List Byte) (i : Nat) :
    Table.read (t.filled p q d).slots i =
      if i = t.head.toNat then some ((slotAt .tx q t.slots t.head.toNat).fill d (BitVec.ofNat 16 d.length) reportFlags)
      else Table.read t.slots i := by
  obtain ⟨-, -, -, -, hslots, -⟩ := ht
  exact Table.read_write hslots.1 _ _ _

/-- The buffer of a filled slot holds the frame, and keeps its bytes beyond it (R182). -/
theorem Slot.read_fill {cap : Nat} {sl : Slot} (hw : Memory.wf cap sl.buf) (bytes : List Byte) (len flags : Half) (j : Nat) :
    Table.read (sl.fill bytes len flags).buf j = if j < bytes.length then bytes[j]? else Table.read sl.buf j := by
  rw [Slot.fill, Table.read_writeRun hw.1]
  simp

section
variable {p : Params} {t : TxQueue} {d : List Byte} (hp : p.legal) (ht : t.inv p)
include hp

/-- The length a slot takes counts the frame's bytes: a frame that fits a slot buffer fits 16 bits (R10). -/
theorem toNat_slotLen (hd : d.length ≤ p.slotBufSize) : (BitVec.ofNat 16 d.length).toNat = d.length := by
  have := hp.2.2.2.1.2
  rw [BitVec.toNat_ofNat, Nat.mod_eq_of_lt (by omega)]

include ht

/-- The sync after the fill hands over exactly the frame (R177, R181). -/
theorem TxQueue.wire_sync_filled (hd : d.length ≤ p.slotBufSize) (q k : Nat) :
    ((t.filled p q d).sync p.numSlots q k).wire = t.wire ++ [{ bytes := d, flags := reportFlags }] := by
  have hn := hp.2.2.1
  have h0 : 0 < p.numSlots := by omega
  obtain ⟨-, hhw, hhead, -, -, hbufs⟩ := id ht
  have hgap : ringGap p.numSlots (t.filled p q d).hwcur (t.filled p q d).head = 1 := by
    change ringGap p.numSlots t.hwcur (ringAdd p.numSlots t.head 1) = 1
    rw [hhw, ringGap_ringAdd hn.2 hhead (by omega)]
  have hread : Table.read (t.filled p q d).slots (ringAdd p.numSlots t.head 0).toNat =
      some ((slotAt .tx q t.slots t.head.toNat).fill d (BitVec.ofNat 16 d.length) reportFlags) := by
    rw [ringAdd_zero hhead, TxQueue.read_filled ht, if_pos rfl]
  have hev := getElem?_handOver h0 hn.2 q (t.filled p q d).slots Nat.one_pos hhead hread (toNat_slotLen hp hd)
    fun x hx => by rw [Slot.read_fill (wf_slotAt hbufs _ _ _), if_pos hx]
  rw [TxQueue.sync_wire, hgap, show (t.filled p q d).hwcur = t.head from hhw]
  exact congrArg (t.wire ++ ·) (List.ext_getElem? fun j => by
    cases j with
    | zero => exact hev
    | succ j => simp)

/-- The sync after the fill completes slots among those in flight, the new one included (R172, R177). -/
theorem TxQueue.tail_sync_filled (hfree : 0 < t.free p.numSlots) (q k : Nat) (d : List Byte) :
    ((t.filled p q d).sync p.numSlots q k).tail.toNat =
      (t.tail.toNat + min k (t.inflight p.numSlots + 1)) % p.numSlots := by
  have hn := hp.2.2.1
  obtain ⟨-, -, hhead, htail, -, -⟩ := ht
  rw [TxQueue.sync_tail, ringAdd_toNat (by omega) hn.2,
    TxQueue.inflight_of_filled hn.2 hhead htail hfree (t' := t.filled p q d) rfl rfl]
  rfl

end

/-- A fill and the sync after it: the filled queue is the one filled and synced, every other queue is synced as it was. -/
theorem getElem?_syncTx_fillSlot {s : State} {q : Nat} {t : TxQueue} (ht : s.txq[q]? = some t) (d : List Byte) (i : Nat) :
    (syncTx (fillSlot q t d s)).txq[i]? =
      if i = q then some ((t.filled s.cfg q d).sync s.cfg.numSlots q (s.env.takeTx.1[q]?.getD 0))
      else s.txq[i]?.map fun x => x.sync s.cfg.numSlots i (s.env.takeTx.1[i]?.getD 0) := by
  rw [getElem?_syncTx, fillSlot_txq, List.getElem?_set]
  obtain ⟨hq, -⟩ := List.getElem?_eq_some_iff.1 ht
  by_cases hi : i = q
  · subst hi
    simp [hq]
  · rw [if_neg (Ne.symm hi), if_neg hi]
    rfl

/-! ### An attempt of SEND -/

/-- SEND's end after it has filled a slot: the queues synced, the results, the code (R181). -/
theorem finish_fillSlot (q : Nat) (t : TxQueue) (d : List Byte) (a b c : Word) (s : State) :
    finish .ok (setResults a b c (syncTx (fillSlot q t d s))) =
      { s with
        txq := (syncTx (fillSlot q t d s)).txq, result0 := a, result1 := b, result2 := c
        engine := .idle, done := true, code := .ok, env := s.env.takeTx.2 } := by
  apply State.ext <;> simp

/-- With no free slot anywhere an attempt makes one sync and waits (R184). -/
theorem sendAttempt_of_full {s : State} (h : ∀ t ∈ s.txq, t.free s.cfg.numSlots = 0) :
    sendAttempt s = .next { syncTx s with engine := .sendSleep } := by
  rw [sendAttempt, firstFree_eq_none.2 h]

section
variable {s : State} {q : Nat} {t : TxQueue} (hf : firstFree s = some (q, t))
include hf

/-- A frame that no slot buffer can take halts the attempt that has found a free slot (R183). -/
theorem sendAttempt_of_oversized (hl : s.cfg.slotBufSize < s.fmLen.toNat) :
    sendAttempt s = .next (halt .txFrameTooLarge (setResults (BitVec.ofNat 32 q) t.head s.txRounds s)) := by
  rw [sendAttempt, hf]
  exact if_pos hl

/-- A written frame that a slot buffer can take goes into the first free slot (R181). -/
theorem sendAttempt_of_fits (hl : s.fmLen.toNat ≤ s.cfg.slotBufSize) {d : List Byte} (hd : readSpan .fm s 0 s.fmLen.toNat = .ok d) :
    sendAttempt s = .next
      { s with
        txq := (syncTx (fillSlot q t d s)).txq, result0 := BitVec.ofNat 32 q, result1 := t.head, result2 := s.txRounds
        engine := .idle, done := true, code := .ok, env := s.env.takeTx.2 } := by
  rw [← finish_fillSlot, sendAttempt, hf, hd]
  exact if_neg (by omega)

end

/-- A queue's index fits a result register (R10). -/
theorem State.ringsInv.toNat_txIndex {s : State} (hs : s.ringsInv) {q : Nat} {t : TxQueue} (hq : s.txq[q]? = some t) :
    (BitVec.ofNat 32 q).toNat = q := by
  obtain ⟨hp, hntx, -, -, -⟩ := hs
  have := (List.getElem?_eq_some_iff.1 hq).1
  have := hp.1.2
  rw [BitVec.toNat_ofNat, Nat.mod_eq_of_lt (by omega)]

/-! ### The obligations about one pass -/

/-- Settles O28: the scan finds the queue, the fill writes its slot, and the sync hands that slot over. -/
theorem sendFillsTheFirstFreeSlot : Obligations.SendFillsTheFirstFreeSlot := by
  intro s q t d hs hq hfree hfirst hfit hlen hheld
  refine State.sendLeaves_of_sendAttempt fun n => ?_
  obtain ⟨hp, -, -, htx, -⟩ := id hs
  have ht : t.inv s.cfg := htx t (List.mem_of_getElem? hq)
  have hd : d.length ≤ s.cfg.slotBufSize := hlen ▸ hfit
  obtain ⟨-, -, hhead, -, -, hbufs⟩ := id ht
  have hn := hp.2.2.1
  have hbuf := Slot.read_fill (wf_slotAt hbufs .tx q t.head.toNat) d (BitVec.ofNat 16 d.length) reportFlags
  have hf : firstFree { s with txRounds := n } = some (q, t) := firstFree_eq_some.2 ⟨hq, hfree, hfirst⟩
  have hspan : readSpan .fm { s with txRounds := n } 0 s.fmLen.toNat = .ok d := hlen ▸ readSpan_of_holds hheld
  refine ⟨_, sendAttempt_of_fits hf hfit hspan, _, _,
    (getElem?_syncTx_fillSlot (s := { s with txRounds := n }) hq d q).trans (if_pos rfl),
    (TxQueue.read_filled ht q d _).trans (if_pos rfl), toNat_slotLen hp hd, rfl, fun j hj => by rw [hbuf, if_pos hj],
    fun sl' hsl j hj => ?_, fun i hi => (TxQueue.read_filled ht q d i).trans (if_neg hi),
    ringAdd_toNat (by omega) hn.2 _ _, rfl, rfl, TxQueue.tail_sync_filled hp ht hfree q _ d, fun q' hq' =>
      (getElem?_syncTx_fillSlot (s := { s with txRounds := n }) hq d q').trans (if_neg hq'),
    TxQueue.wire_sync_filled hp ht hd q _, rfl, hs.toNat_txIndex hq, rfl, rfl, rfl, rfl, rfl, rfl⟩
  rw [hbuf, if_neg (by omega), slotAt_eq_of_read hsl]

/-- Settles O29: the halt comes before the fill and the sync. -/
theorem sendRejectsOversizedFrame : Obligations.SendRejectsOversizedFrame := by
  intro s q t hq hfree hfirst hl
  refine State.sendLeaves_of_sendAttempt fun n => ?_
  have hf : firstFree { s with txRounds := n } = some (q, t) := firstFree_eq_some.2 ⟨hq, hfree, hfirst⟩
  exact ⟨_, sendAttempt_of_oversized hf hl, rfl⟩

/-- Settles O30: the scan finds nothing, and the one sync leaves each queue's engine side alone. -/
theorem sendWaitsWhenEveryQueueIsFull : Obligations.SendWaitsWhenEveryQueueIsFull := by
  intro s hfull
  refine State.sendLeaves_of_sendAttempt fun n => ⟨_, sendAttempt_of_full hfull, rfl, length_syncTxFrom _ _ _ _,
    fun q t t' ht ht' => ?_⟩
  obtain rfl := eq_sync_of_syncTx (s := s) ht ht'
  exact ⟨rfl, rfl, rfl, rfl⟩

/-- What an attempt of SEND can change (R196). -/
theorem sendAttempt_frame {s u : State} (h : sendAttempt s = .next u) :
    u = { s with
      txq := u.txq, result0 := u.result0, result1 := u.result1, result2 := u.result2
      engine := u.engine, done := u.done, fatal := u.fatal, code := u.code, env := u.env } ∧
    u.txq.length = s.txq.length := by
  rcases sendAttempt_eq_next h with ⟨-, rfl⟩ | ⟨_, _, -, ⟨-, rfl⟩ | ⟨-, _, -, rfl⟩⟩
  · exact ⟨rfl, length_syncTxFrom _ _ _ _⟩
  · exact ⟨rfl, rfl⟩
  · rw [finish_fillSlot]
    exact ⟨rfl, (length_syncTxFrom _ _ _ _).trans List.length_set⟩

/-- Settles O31, for each way an attempt can go on: a sync alone, a halt, or a fill and its sync. -/
theorem sendChangesOnlyTransmitState : Obligations.SendChangesOnlyTransmitState := by
  intro s u n hs h
  obtain ⟨hp, -, -, htx, -⟩ := hs
  have hattempt := State.sendAttempt_of_sendPass h
  obtain ⟨hframe, hlen⟩ := sendAttempt_frame hattempt
  refine ⟨hframe, hlen, fun q t t' ht ht' => ?_⟩
  clear hframe hlen
  rcases sendAttempt_eq_next hattempt with ⟨hf, rfl⟩ | ⟨q0, x, hf, ⟨-, rfl⟩ | ⟨hfit, d, hd, rfl⟩⟩
  · have hnone : firstFree s = none := hf
    obtain rfl := eq_sync_of_syncTx (s := s) ht ht'
    exact ⟨fun _ => ⟨rfl, rfl, rfl, .inr rfl⟩, by simp [hnone], fun _ _ => rfl⟩
  · obtain rfl := Option.some.inj (ht.symm.trans ht')
    exact ⟨fun _ => ⟨rfl, rfl, rfl, .inl rfl⟩, fun _ => .inl rfl, fun _ _ => rfl⟩
  · have hsome : firstFree s = some (q0, x) := hf
    obtain ⟨hq0, hfree, -⟩ := firstFree_eq_some.1 hsome
    have hsync := (getElem?_syncTx_fillSlot hq0 d q).symm.trans ht'
    by_cases hq : q = q0
    · subst hq
      obtain rfl := Option.some.inj (ht.symm.trans hq0)
      have htinv : t.inv s.cfg := htx t (List.mem_of_getElem? ht)
      have hlen : d.length ≤ s.cfg.slotBufSize := (readSpan_eq_ok.1 hd).1 ▸ hfit
      have hn := hp.2.2.1
      rw [if_pos rfl] at hsync
      obtain rfl := Option.some.inj hsync
      exact ⟨fun hne => absurd (congrArg (Option.map Prod.fst) hsome) hne,
        fun _ => .inr ⟨ringAdd_toNat (by omega) hn.2 _ _, rfl, rfl, TxQueue.tail_sync_filled hp htinv hfree q _ d, _,
          TxQueue.wire_sync_filled hp htinv hlen q _⟩,
        fun i hi => (TxQueue.read_filled htinv q d i).trans (if_neg hi)⟩
    · rw [if_neg hq, ht] at hsync
      obtain rfl := Option.some.inj hsync
      exact ⟨fun _ => ⟨rfl, rfl, rfl, .inr rfl⟩, fun heq => absurd (by simpa [hsome] using heq.symm) hq, fun _ _ => rfl⟩

/-! ### SEND's sleep and its rounds -/

/-- The end of SEND's sleep, while the host waits (R179, R184). -/
theorem step_of_sendSleep {s : State} (he : s.engine = .sendSleep) (hw : s.hostWaits) : step s = .next (endBackoff s) := by
  rw [step_of_hostWaits hw (by simp [he]), engineStep_of_sendSleep he]

/-- A later pass of SEND, while the host waits (R184). -/
theorem step_of_sendLoop {s : State} (he : s.engine = .sendLoop) (hw : s.hostWaits) : step s = sendAttempt s := by
  rw [step_of_hostWaits hw (by simp [he]), engineStep_of_sendLoop he]

/-- Settles O7: the step is `endBackoff`, whose count is below 2^32. -/
theorem sendSleepCountsTheRound : Obligations.SendSleepCountsTheRound := by
  intro s he hw
  exact ⟨_, step_of_sendSleep he hw, by rw [BitVec.toNat_ofNat]; omega⟩

/-- A sync that completes nothing, with nothing to hand over, changes the substrate's script alone (R177). -/
theorem syncTx_of_idle_choice {s : State} (hs : s.ringsInv) {rest : List TxChoice} (hc : s.env.txScript = [] :: rest) :
    syncTx s = { s with env := { s.env with txScript := rest } } := by
  obtain ⟨-, -, -, htx, -⟩ := hs
  have htake : s.env.takeTx = ([], { s.env with txScript := rest }) := Env.takeTx_of_cons hc
  have hq : (syncTx s).txq = s.txq := by
    refine List.ext_getElem? fun i => ?_
    rw [getElem?_syncTx, htake]
    cases ht : s.txq[i]? with
    | none => rfl
    | some t =>
      obtain ⟨-, hhw, hhead, htail, -⟩ := htx t (List.mem_of_getElem? ht)
      exact congrArg some (TxQueue.sync_zero hhw hhead htail)
  have he : (syncTx s).env = { s.env with txScript := rest } := congrArg Prod.snd htake
  calc syncTx s = { s with txq := (syncTx s).txq, env := (syncTx s).env } := rfl
    _ = _ := by rw [hq, he]

/-- The state in which SEND sleeps after `k` rounds in all, `rest` being left of the substrate's script. -/
def State.sendAsleep (s : State) (k : Nat) (rest : List TxChoice) : State :=
  { s with
    engine := .sendSleep
    txRounds := BitVec.ofNat 32 (min k (2 ^ 32 - 1))
    env := { s.env with txScript := rest } }

/-- An attempt with every queue full and a substrate that completes nothing goes to sleep (R184). -/
theorem sendAttempt_asleep {s : State} (hs : s.ringsInv) (hfull : ∀ t ∈ s.txq, t.free s.cfg.numSlots = 0) (k : Nat)
    {rest : List TxChoice} (hc : s.env.txScript = [] :: rest) (hk : s.txRounds = BitVec.ofNat 32 (min k (2 ^ 32 - 1))) :
    sendAttempt s = .next (s.sendAsleep k rest) := by
  rw [sendAttempt_of_full hfull, syncTx_of_idle_choice hs hc, State.sendAsleep, ← hk]

/-- The round count saturates (R181). -/
theorem saturating_succ (k : Nat) :
    BitVec.ofNat 32 (min ((BitVec.ofNat 32 (min k (2 ^ 32 - 1))).toNat + 1) 4294967295) =
      BitVec.ofNat 32 (min (k + 1) (2 ^ 32 - 1)) := by
  have hmin : min ((BitVec.ofNat 32 (min k (2 ^ 32 - 1))).toNat + 1) 4294967295 = min (k + 1) (2 ^ 32 - 1) := by
    rw [BitVec.toNat_ofNat]
    omega
  rw [hmin]

section
variable {s : State} (hw : s.hostWaits) (hs : s.ringsInv) (hfull : ∀ t ∈ s.txq, t.free s.cfg.numSlots = 0)
include hw hs hfull

/-- The pass after a sleep goes to sleep again, with one round more behind it. -/
theorem step_endBackoff_sendAsleep (k : Nat) (rest : List TxChoice) :
    step (endBackoff (s.sendAsleep k ([] :: rest))) = .next (s.sendAsleep (k + 1) rest) := by
  have hloop : (endBackoff (s.sendAsleep k ([] :: rest))).engine = .sendLoop := rfl
  rw [step_of_sendLoop hloop hw]
  exact sendAttempt_asleep (s := endBackoff (s.sendAsleep k ([] :: rest))) hs hfull (k + 1) rfl (saturating_succ k)

/-- SEND sleeps again after `n` more rounds of two steps, the sleep and the pass after it. -/
theorem run_sendAsleep (n k : Nat) (rest : List TxChoice) :
    Sys2Proof.core.run (2 * n) (s.sendAsleep k (List.replicate n [] ++ rest)) = .next (s.sendAsleep (k + n) rest) := by
  induction n generalizing k with
  | zero => rfl
  | succ n ih =>
    have hsleep (r : List TxChoice) : step (s.sendAsleep k r) = .next (endBackoff (s.sendAsleep k r)) :=
      step_of_sendSleep rfl hw
    calc Sys2Proof.core.run (2 * n + 1 + 1) (s.sendAsleep k ([] :: (List.replicate n [] ++ rest)))
      _ = Sys2Proof.core.run (2 * n + 1) (endBackoff (s.sendAsleep k ([] :: (List.replicate n [] ++ rest)))) :=
        core_run_succ (hsleep _) _
      _ = Sys2Proof.core.run (2 * n) (s.sendAsleep (k + 1) (List.replicate n [] ++ rest)) :=
        core_run_succ (step_endBackoff_sendAsleep hw hs hfull k _) _
      _ = .next (s.sendAsleep (k + 1 + n) rest) := ih (k + 1)
      _ = .next (s.sendAsleep (k + (n + 1)) rest) := by rw [Nat.add_right_comm, Nat.add_assoc]

end

/-- Settles O32: the first pass goes to sleep, and so does each later one. -/
theorem sendRetriesWithoutBound : Obligations.SendRetriesWithoutBound := by
  intro n s rest he hd hw hs hfull hscript
  have hfirst : step s = .next (s.sendAsleep 0 (List.replicate n [] ++ rest)) := by
    rw [step_of_hostWaits hw (by simp [he]), engineStep_of_start he hd]
    exact sendAttempt_asleep (s := { s with txRounds := 0 }) hs hfull 0 hscript rfl
  exact ⟨_, (core_run_succ hfirst _).trans (run_sendAsleep hw hs hfull n 0 rest), by rw [Nat.zero_add]; rfl⟩

end Sys2Proof.Machine

/-! SUPPORT. What a drain has appended (R186 to R188), and how a pass of RECV ends on it (R185, R189, R191). -/

namespace Sys2Proof.Machine

/-! ### What a drain has appended -/

/-- The drain `x` has appended the slots' bytes `ds`, from the cursor `head` of a ring of `n` slots on, to an empty frame over the
buffer `rf` (R186). -/
structure Drain.Appended (x : Drain) (n : Nat) (head : Word) (rf : Memory) (ds : List (List Byte)) : Prop where
  rfLen : x.rfLen.toNat = ds.flatten.length
  rcur : x.rcur = ringAdd n head ds.length
  rn : x.rn = ds.length
  wf : Memory.wf 65536 x.rf
  read : ∀ a, Table.read x.rf a = if a < ds.flatten.length then ds.flatten[a]? else Table.read rf a

section
variable {x : Drain} {n : Nat} {head : Word} {rf : Memory} {ds : List (List Byte)}

/-- The frame stands in RF from address 0 on. -/
theorem Drain.Appended.holds (hx : x.Appended n head rf ds) {u : State} (hu : u.rf = x.rf) : u.holds .rf 0 ds.flatten := by
  intro i hi
  rw [State.byteAt, State.memory, hu, hx.read, Nat.zero_add, if_pos hi]

/-- Beyond the frame RF is as it was. -/
theorem Drain.Appended.byteAt_of_le (hx : x.Appended n head rf ds) {s u : State} (hs : s.rf = rf) (hu : u.rf = x.rf) {a : Nat}
    (ha : ds.flatten.length ≤ a) : u.byteAt .rf a = s.byteAt .rf a := by
  rw [State.byteAt, State.memory, hu, hx.read, if_neg (by omega), ← hs]
  rfl

/-- One slot more is appended (R186). -/
theorem Drain.Appended.append (h0 : 0 < n) (h1 : n ≤ 65536) (hx : x.Appended n head rf ds) (q : Nat) {sl : Slot} {d : List Byte}
    (hlen : sl.len.toNat = d.length) (hd : ∀ j < d.length, Table.read sl.buf j = d[j]?)
    (hfit : (ds.flatten ++ d).length ≤ 65536) : (x.append n q sl).Appended n head rf (ds ++ [d]) := by
  have hflat : (ds ++ [d]).flatten = ds.flatten ++ d := by simp
  rw [List.length_append] at hfit
  obtain ⟨hrfLen, hwf, hread⟩ := Drain.append_spec (n := n) (q := q) hlen hd hx.wf (by rw [hx.rfLen]; exact hfit)
  rw [hx.rfLen] at hrfLen hread
  refine ⟨by rw [hrfLen, hflat, List.length_append], ?_, ?_, hwf, fun a => ?_⟩
  · rw [List.length_append, ← ringAdd_ringAdd h0 h1, ← hx.rcur]
    rfl
  · rw [List.length_append, ← hx.rn]
    rfl
  · rw [hread, hx.read, hflat, List.length_append]
    by_cases hold : a < ds.flatten.length
    · rw [if_neg (by omega), if_pos hold, if_pos (by omega), List.getElem?_append_left hold]
    · by_cases hnew : a < ds.flatten.length + d.length
      · rw [if_pos ⟨by omega, hnew⟩, if_pos hnew, List.getElem?_append_right (by omega)]
      · rw [if_neg (by omega), if_neg hold, if_neg hnew]

end

/-! ### The drain of a queue -/

section
variable {s : State} {q : Nat} {r : RxQueue} {ds : List (List Byte)} (hp : s.cfg.legal) (hr : r.inv s.cfg)
  (hw : Memory.wf 65536 s.rf) (hl : s.rfLen = 0) (hds : r.fragments s.cfg ds) (hfit : ds.flatten.length ≤ 65536)
include hp hr hw hl hds hfit

/-- The fragments at a queue's HEAD are appended to the empty frame, and the drain goes on with the `k` pending slots after them. -/
theorem drainQueue_fragments {k : Nat} (hk : ds.length + k = r.pending s.cfg.numSlots) :
    ∃ x : Drain, drainQueue q r s = drain s.cfg q r.slots k x ∧ x.Appended s.cfg.numSlots r.head s.rf ds := by
  have hstart : s.rfLen.toNat = 0 := by rw [hl]; rfl
  obtain ⟨x, hdrain, hrfLen, hrcur, hrn, hwf, hread⟩ := drain_fragments hp q r.slots k ds
    (d := { rf := s.rf, rfLen := s.rfLen, rcur := r.head, rn := 0 }) hw hr.2.1
    (fun i e he => by
      obtain ⟨⟨sl, hsl, hlen, hmore, hbytes⟩, hsize⟩ := hds i e he
      exact ⟨sl, hsl, hlen, hmore, hbytes, hsize⟩)
    (by rw [hstart]; omega)
  simp only [hstart, Nat.zero_add, Nat.zero_le, true_and, Nat.sub_zero] at hrfLen hrn hread
  rw [hk] at hdrain
  exact ⟨x, hdrain, hrfLen, hrcur, hrn, hwf, hread⟩

/-- Every pending slot is a fragment: the drain runs out of slots (R188). -/
theorem drainQueue_cut (hk : ds.length = r.pending s.cfg.numSlots) :
    ∃ x : Drain, drainQueue q r s = (x, .cut) ∧ x.Appended s.cfg.numSlots r.head s.rf ds :=
  drainQueue_fragments hp hr hw hl hds hfit (k := 0) hk

/-- The slot after the fragments is too long for its buffer or for the frame: the drain stops before it (R187). -/
theorem drainQueue_oversized (hk : ds.length + 1 ≤ r.pending s.cfg.numSlots) {sl : Slot}
    (hsl : Table.read r.slots (ringAdd s.cfg.numSlots r.head ds.length).toNat = some sl)
    (hlong : s.cfg.slotBufSize < sl.len.toNat ∨ 65536 < ds.flatten.length + sl.len.toNat) :
    ∃ x : Drain, drainQueue q r s = (x, if s.cfg.slotBufSize < sl.len.toNat then .slotTooLong else .frameTooLong) ∧
      x.Appended s.cfg.numSlots r.head s.rf ds := by
  obtain ⟨k, hk⟩ := Nat.exists_eq_add_of_le hk
  obtain ⟨x, hdrain, hx⟩ := drainQueue_fragments (q := q) hp hr hw hl hds hfit (k := k + 1) (by omega)
  refine ⟨x, ?_, hx⟩
  rw [hdrain, drain_succ _ _ _ _ _ _ (slotAt_eq_of_read (hx.rcur ▸ hsl)), hx.rfLen]
  by_cases hslot : s.cfg.slotBufSize < sl.len.toNat
  · rw [if_pos hslot, if_pos hslot]
  · rw [if_neg hslot, if_neg hslot, if_pos (by omega)]

omit hfit in
/-- The slot after the fragments has MOREFRAG = 0: the drain appends it, and the frame is whole (R186). -/
theorem drainQueue_whole (hk : ds.length + 1 ≤ r.pending s.cfg.numSlots) {d : List Byte}
    (hlast : r.slotIs (ringAdd s.cfg.numSlots r.head ds.length).toNat d false) (hsize : d.length ≤ s.cfg.slotBufSize)
    (hfit : (ds.flatten ++ d).length ≤ 65536) :
    ∃ x : Drain, drainQueue q r s = (x, .whole) ∧ x.Appended s.cfg.numSlots r.head s.rf (ds ++ [d]) := by
  have hn := hp.2.2.1
  rw [List.length_append] at hfit
  obtain ⟨k, hk⟩ := Nat.exists_eq_add_of_le hk
  obtain ⟨x, hdrain, hx⟩ := drainQueue_fragments (q := q) hp hr hw hl hds (by omega) (k := k + 1) (by omega)
  obtain ⟨sl, hsl, hlen, hmore, hbytes⟩ := hlast
  refine ⟨x.append s.cfg.numSlots q sl, ?_, hx.append (by omega) hn.2 q hlen hbytes (by rwa [List.length_append])⟩
  rw [hdrain, drain_succ _ _ _ _ _ _ (slotAt_eq_of_read (hx.rcur ▸ hsl)), hx.rfLen, if_neg (by omega), if_neg (by omega), hmore]
  rfl

end

/-! ### An attempt of RECV -/

/-- With nothing pending an attempt makes one sync and waits (R185). -/
theorem recvAttempt_of_empty {s : State} (h : ∀ r ∈ s.rxq, r.pending s.cfg.numSlots = 0) :
    recvAttempt s = .next { syncRx s with engine := .recvSleep } := by
  rw [recvAttempt, firstPending_eq_none.2 h]

/-- With a pending slot an attempt drains its queue, and ends as the drain does (R185). -/
theorem recvAttempt_of_pending {s : State} {q : Nat} {r : RxQueue} (hf : firstPending s = some (q, r)) {x : Drain} {how : DrainEnd}
    (hd : drainQueue q r s = (x, how)) : recvAttempt s = .next (endDrain q r x how s) := by
  rw [recvAttempt, hf]
  simp only [hd]

/-- A queue's index fits a result register (R10). -/
theorem State.ringsInv.toNat_rxIndex {s : State} (hs : s.ringsInv) {q : Nat} {r : RxQueue} (hq : s.rxq[q]? = some r) :
    (BitVec.ofNat 32 q).toNat = q := by
  obtain ⟨hp, -, hnrx, -, -⟩ := hs
  have := (List.getElem?_eq_some_iff.1 hq).1
  have := hp.2.1.2
  rw [BitVec.toNat_ofNat, Nat.mod_eq_of_lt (by omega)]

/-- After a whole frame the queue is committed and synced, every other queue synced as it was (R189). -/
theorem getElem?_endDrain_whole {s : State} {q : Nat} {r : RxQueue} (hr : s.rxq[q]? = some r) (x : Drain) (i : Nat) :
    (endDrain q r x .whole s).rxq[i]? =
      if i = q then
        some (RxQueue.sync s.cfg.numSlots s.cfg.slotBufSize q (s.env.takeRx.1[q]?.getD []) { r with head := x.rcur, cur := x.rcur })
      else s.rxq[i]?.map fun y => y.sync s.cfg.numSlots s.cfg.slotBufSize i (s.env.takeRx.1[i]?.getD []) := by
  rw [endDrain_whole]
  change (syncRxFrom _ _ _ _ _)[i]? = _
  rw [getElem?_syncRxFrom, List.getElem?_set, Nat.zero_add]
  obtain ⟨hq, -⟩ := List.getElem?_eq_some_iff.1 hr
  by_cases hi : i = q
  · subst hi
    simp [hq]
  · rw [if_neg (Ne.symm hi), if_neg hi]

/-- A slot that fails one of R187's checks, `long` saying that it is the first one: halted, no queue committed, no sync; reported
unless ARG0 was unwritten (R248). -/
theorem endDrain_oversized (q : Nat) (r : RxQueue) (x : Drain) (s : State) (long : Prop) [Decidable long] :
    endDrain q r x (if long then .slotTooLong else .frameTooLong) s =
      { s with
        rf := x.rf, rfLen := x.rfLen, rcur := x.rcur, rn := x.rn
        result0 := if s.arg0.written then BitVec.ofNat 32 q else s.result0
        result1 := if s.arg0.written then x.rcur else s.result1
        result2 := if s.arg0.written then (if long then 1 else 0) else s.result2
        engine := .idle, done := true
        fatal := s.arg0.written || s.fatal
        code := if s.arg0.written then .oversizedFrame else s.code } := by
  by_cases h : long
  · simp only [if_pos h, endDrain_slotTooLong]
  · simp only [if_neg h, endDrain_frameTooLong]

/-! ### The obligations about one pass -/

/-- Settles O36: the scan finds nothing, and the one sync leaves HEAD and CUR alone. -/
theorem recvWaitsWhenNothingIsPending : Obligations.RecvWaitsWhenNothingIsPending := by
  intro s hempty
  refine State.recvLeaves_of_recvAttempt fun b => ⟨_, recvAttempt_of_empty hempty, rfl, length_syncRxFrom _ _ _ _ _,
    fun q r r' hr hr' => ?_⟩
  obtain rfl := eq_sync_of_syncRx (s := s) hr hr'
  exact ⟨rfl, rfl⟩

/-- Settles O33: the drain appends the fragments and the last slot, the commit moves past them, and the sync spares the slots that are
still pending. -/
theorem recvReassemblesTheFrame : Obligations.RecvReassemblesTheFrame := by
  intro s q r ds d hs hw hq hfirst hk hds hlast hsize hfit
  refine State.recvLeaves_of_recvAttempt fun b => ?_
  obtain ⟨hp, -, -, -, hrx⟩ := id hs
  have hn := hp.2.2.1
  have hr : r.inv s.cfg := hrx r (List.mem_of_getElem? hq)
  have hpend : r.pending s.cfg.numSlots < s.cfg.numSlots := ringGap_lt (by omega) _ _
  have hf : firstPending (s.recvFrom b 0) = some (q, r) :=
    firstPending_eq_some.2 ⟨hq, Nat.lt_of_lt_of_le (Nat.succ_pos _) hk, hfirst⟩
  obtain ⟨x, hdrain, hx⟩ := drainQueue_whole (s := s.recvFrom b 0) (q := q) hp hr hw rfl hds hk hlast hsize hfit
  have hlen : (ds ++ [d]).length = ds.length + 1 := by simp
  have hflat : (ds ++ [d]).flatten = ds.flatten ++ d := by simp
  have hrcur : x.rcur = ringAdd s.cfg.numSlots r.head (ds.length + 1) := hlen ▸ hx.rcur
  have hrf : (endDrain q r x .whole (s.recvFrom b 0)).rf = x.rf := by rw [endDrain_whole]
  have hqueue := getElem?_endDrain_whole (s := s.recvFrom b 0) hq x
  refine ⟨_, recvAttempt_of_pending hf hdrain, _, (hqueue q).trans (if_pos rfl), ?_, hflat ▸ hx.holds hrf,
    fun a ha => hx.byteAt_of_le (s := s) rfl hrf (hflat ▸ ha), ?_, rfl, rfl, fun j hj hjp => ?_,
    fun q' hq' => (hqueue q').trans (if_neg hq'), ?_⟩
  · rw [endDrain_whole, ← hflat]
    exact hx.rfLen
  · rw [RxQueue.sync_head, hrcur]
    exact ringAdd_toNat (by omega) hn.2 _ _
  · rw [hrcur]
    exact RxQueue.read_sync_of_committed hp hr q _ hj hjp
  · rw [endDrain_whole]
    refine ⟨rfl, hs.toNat_rxIndex hq, rfl, ?_, rfl, rfl, rfl, rfl, rfl⟩
    simp only [hx.rn, hlen, BitVec.toNat_ofNat]
    omega

/-- Settles O34: the drain runs out of slots with its cursor at TAIL. -/
theorem recvHaltsOnPartialFrame : Obligations.RecvHaltsOnPartialFrame := by
  intro s q r ds hs hw hq hfirst hpos hk hds hfit
  refine State.recvLeaves_of_recvAttempt fun b => ?_
  obtain ⟨hp, -, -, -, hrx⟩ := id hs
  have hn := hp.2.2.1
  have hr : r.inv s.cfg := hrx r (List.mem_of_getElem? hq)
  have hpend : r.pending s.cfg.numSlots < s.cfg.numSlots := ringGap_lt (by omega) _ _
  have hf : firstPending (s.recvFrom b 0) = some (q, r) := firstPending_eq_some.2 ⟨hq, hpos, hfirst⟩
  obtain ⟨x, hdrain, hx⟩ := drainQueue_cut (s := s.recvFrom b 0) (q := q) hp hr hw rfl hds hfit hk
  have hrcur : x.rcur = r.tail := by
    rw [hx.rcur, hk]
    exact ringAdd_ringGap hn.2 hr.2.1 hr.2.2.1
  refine ⟨_, recvAttempt_of_pending hf hdrain, ?_⟩
  rw [endDrain_cut]
  refine ⟨hx.rfLen, hx.holds rfl, rfl, rfl, rfl, rfl, rfl, fun ha => ?_, fun ha => by simp [ha]⟩
  simp only [State.recvFrom_arg0, ha, if_true, hrcur, hx.rn, hs.toNat_rxIndex hq, Bool.true_or, BitVec.toNat_ofNat, true_and, and_true]
  omega

/-- Settles O35: the drain stops at the slot that fails one of R187's checks. -/
theorem recvHaltsOnOversizedFrame : Obligations.RecvHaltsOnOversizedFrame := by
  intro s q r ds sl hs hw hq hfirst hk hds hfit hsl hlong
  refine State.recvLeaves_of_recvAttempt fun b => ?_
  obtain ⟨hp, -, -, -, hrx⟩ := id hs
  have hn := hp.2.2.1
  have hr : r.inv s.cfg := hrx r (List.mem_of_getElem? hq)
  have hf : firstPending (s.recvFrom b 0) = some (q, r) :=
    firstPending_eq_some.2 ⟨hq, Nat.lt_of_lt_of_le (Nat.succ_pos _) hk, hfirst⟩
  obtain ⟨x, hdrain, hx⟩ := drainQueue_oversized (s := s.recvFrom b 0) (q := q) hp hr hw rfl hds hfit hk hsl hlong
  have hrcur : x.rcur.toNat = (r.head.toNat + ds.length) % s.cfg.numSlots := by
    rw [hx.rcur]
    exact ringAdd_toNat (by omega) hn.2 _ _
  refine ⟨_, recvAttempt_of_pending hf hdrain, ?_⟩
  rw [endDrain_oversized]
  refine ⟨hx.rfLen, hx.holds rfl, rfl, rfl, rfl, rfl, rfl, fun ha => ?_, fun ha => by simp [ha]⟩
  simp only [State.recvFrom_arg0, State.recvFrom_cfg, ha, if_true, hrcur, hs.toNat_rxIndex hq, Bool.true_or, and_self]

/-- Every append lies within the length a drain ends with: from there on RF is as it was (R186). -/
theorem read_drain_of_le {cfg : Params} (q : Nat) (slots : Table Slot) (avail : Nat) {x : Drain} (hw : Memory.wf 65536 x.rf) (a : Nat)
    (ha : (drain cfg q slots avail x).1.rfLen.toNat ≤ a) : Table.read (drain cfg q slots avail x).1.rf a = Table.read x.rf a := by
  refine (drain_induction (P := fun y => Memory.wf 65536 y.rf ∧ (y.rfLen.toNat ≤ a → Table.read y.rf a = Table.read x.rf a))
    (fun y hy _ hfit => ?_) avail x ⟨hw, fun _ => rfl⟩).2 ha
  obtain ⟨hwf, hread⟩ := hy
  refine ⟨Memory.wf_writeRun hwf (by rwa [Slot.length_bytes]), fun hle => ?_⟩
  simp only [Drain.append, BitVec.toNat_ofNat] at hle
  rw [Drain.append, Table.read_writeRun hwf.1, if_neg (by rw [Slot.length_bytes]; omega)]
  exact hread (by omega)

/-- How an attempt of RECV can leave receive queue `q`: as it was, or synced once `m` of its pending slots have been committed, which
only the queue that the scan finds can have (R180, R189). -/
theorem recvAttempt_rxq {s u : State} (hs : s.ringsInv) (h : recvAttempt s = .next u) {q : Nat} {r r' : RxQueue}
    (hr : s.rxq[q]? = some r) (hr' : u.rxq[q]? = some r') :
    r' = r ∨ ∃ m ≤ r.pending s.cfg.numSlots, ((firstPending s).map Prod.fst ≠ some q → m = 0) ∧
      r' = RxQueue.sync s.cfg.numSlots s.cfg.slotBufSize q (s.env.takeRx.1[q]?.getD [])
        { r with head := ringAdd s.cfg.numSlots r.head m, cur := ringAdd s.cfg.numSlots r.head m } := by
  obtain ⟨hp, -, -, -, hrx⟩ := hs
  obtain ⟨hcur, hhead, -⟩ := id (hrx r (List.mem_of_getElem? hr))
  have hzero : ({ r with head := ringAdd s.cfg.numSlots r.head 0, cur := ringAdd s.cfg.numSlots r.head 0 } : RxQueue) = r := by
    rw [ringAdd_zero hhead]
    nth_rw 2 [← hcur]
  rcases recvAttempt_eq_next h with ⟨-, rfl⟩ | ⟨q0, r0, hf, rfl⟩
  · exact .inr ⟨0, Nat.zero_le _, fun _ => rfl, by rw [hzero]; exact eq_sync_of_syncRx (s := s) hr hr'⟩
  · obtain ⟨hq0, -⟩ := firstPending_eq_some.1 hf
    cases hhow : (drainQueue q0 r0 s).2 <;> rw [hhow] at hr'
    case whole =>
      rw [getElem?_endDrain_whole hq0] at hr'
      by_cases hq : q = q0
      · subst hq
        obtain rfl := Option.some.inj (hr.symm.trans hq0)
        obtain ⟨m, hm, hrcur⟩ := drainQueue_rcur hp q (hrx r (List.mem_of_getElem? hr))
        rw [if_pos rfl, hrcur] at hr'
        exact .inr ⟨m, hm, fun hne => absurd (congrArg (Option.map Prod.fst) hf) hne, (Option.some.inj hr').symm⟩
      · rw [if_neg hq, hr] at hr'
        exact .inr ⟨0, Nat.zero_le _, fun _ => rfl, by rw [hzero]; exact (Option.some.inj hr').symm⟩
    case cut => rw [endDrain_cut] at hr'; exact .inl (Option.some.inj (hr'.symm.trans hr))
    case slotTooLong => rw [endDrain_slotTooLong] at hr'; exact .inl (Option.some.inj (hr'.symm.trans hr))
    case frameTooLong => rw [endDrain_frameTooLong] at hr'; exact .inl (Option.some.inj (hr'.symm.trans hr))

/-- What an attempt of RECV can change (R196). -/
theorem recvAttempt_frame {s u : State} (h : recvAttempt s = .next u) :
    u = { s with
      rf := u.rf, rfLen := u.rfLen, rxq := u.rxq, rcur := u.rcur, rn := u.rn
      result0 := u.result0, result1 := u.result1, result2 := u.result2
      engine := u.engine, done := u.done, fatal := u.fatal, code := u.code, env := u.env } ∧
    u.rxq.length = s.rxq.length := by
  rcases recvAttempt_eq_next h with ⟨-, rfl⟩ | ⟨q, r, -, rfl⟩
  · exact ⟨rfl, length_syncRxFrom _ _ _ _ _⟩
  · cases (drainQueue q r s).2
    case whole => rw [endDrain_whole]; exact ⟨rfl, (length_syncRxFrom _ _ _ _ _).trans List.length_set⟩
    case cut => rw [endDrain_cut]; exact ⟨rfl, rfl⟩
    case slotTooLong => rw [endDrain_slotTooLong]; exact ⟨rfl, rfl⟩
    case frameTooLong => rw [endDrain_frameTooLong]; exact ⟨rfl, rfl⟩

/-- An attempt of RECV changes no byte of RF at the length it leaves and above (R186). -/
theorem recvAttempt_byteAt_of_le {s u : State} (hw : Memory.wf 65536 s.rf) (h : recvAttempt s = .next u) {a : Nat}
    (ha : u.rfLen.toNat ≤ a) : u.byteAt .rf a = s.byteAt .rf a := by
  rcases recvAttempt_eq_next h with ⟨-, rfl⟩ | ⟨q, r, -, rfl⟩
  · rfl
  · obtain ⟨-, -, hrfLen, -⟩ := endDrain_keeps q r (drainQueue q r s).1 (drainQueue q r s).2 s
    rw [hrfLen] at ha
    rw [State.byteAt, State.memory, (endDrain_buffers q r _ _ s).2]
    exact read_drain_of_le q r.slots _ hw a ha

/-- Settles O37: what an attempt changes, and what it can do to each receive queue. -/
theorem recvChangesOnlyReceiveState : Obligations.RecvChangesOnlyReceiveState := by
  intro s u b hs hw hpass
  obtain ⟨l, h⟩ := State.recvAttempt_of_recvPass hpass
  obtain ⟨hframe, hlen⟩ := recvAttempt_frame h
  refine ⟨hframe, fun a ha => recvAttempt_byteAt_of_le (s := s.recvFrom b l) hw h ha, hlen, fun q r r' hr hr' => ?_⟩
  obtain ⟨hp, -, -, -, hrx⟩ := id hs
  have hn := hp.2.2.1
  have hrinv : r.inv s.cfg := hrx r (List.mem_of_getElem? hr)
  obtain ⟨hcur, hhead, -⟩ := id hrinv
  rcases recvAttempt_rxq (s := s.recvFrom b l) hs h hr hr' with rfl | ⟨m, hm, hother, rfl⟩
  · exact ⟨fun _ => rfl, hcur, .inl rfl, 0, Nat.zero_le _, by rw [Nat.add_zero, Nat.mod_eq_of_lt hhead], fun _ _ _ => rfl⟩
  · refine ⟨fun hne => ?_, rfl, .inr rfl, m, hm, ringAdd_toNat (by omega) hn.2 _ _, fun j hmj hj =>
      RxQueue.read_sync_of_committed hp hrinv q _ hmj hj⟩
    rw [hother hne]
    exact ringAdd_zero hhead

end Sys2Proof.Machine

/-! SUPPORT. RECV's sleep (R190), its rounds (R192), and that it always ends (R194). -/

namespace Sys2Proof.Machine

/-! ### RECV's sleep -/

/-- The end of RECV's sleep, while the host waits (R179, R190). -/
theorem step_of_recvSleep {s : State} (he : s.engine = .recvSleep) (hw : s.hostWaits) : step s = .next (endPoll s) := by
  rw [step_of_hostWaits hw (by simp [he]), engineStep_of_recvSleep he]

/-- A later pass of RECV, while the host waits (R185). -/
theorem step_of_recvLoop {s : State} (he : s.engine = .recvLoop) (hw : s.hostWaits) : step s = recvAttempt s := by
  rw [step_of_hostWaits hw (by simp [he]), engineStep_of_recvLoop he]

/-- Below 2^63 a poll interval is added to RX_ELAPSED without wrapping (log 24). -/
theorem toNat_countPoll_rxElapsed {s : State} (hp : s.cfg.legal) (h : s.rxElapsed.toNat < 2 ^ 63) :
    (countPoll s).rxElapsed.toNat = s.rxElapsed.toNat + s.cfg.pollIntervalUs := by
  have := hp.2.2.2.2.1.2
  rw [countPoll_rxElapsed, BitVec.toNat_add, BitVec.toNat_ofNat]
  omega

/-- The count of failed polls fits RESULT0 below 2^32 (R190). -/
theorem toNat_pollResult {s : State} (h : s.rxPolls < 2 ^ 32) : (pollResult s).toNat = s.rxPolls := by
  rw [pollResult, if_pos (by omega), BitVec.toNat_ofNat, Nat.mod_eq_of_lt h]

/-- RECV ends at the poll that takes RX_ELAPSED past the timeout (R190). -/
theorem endPoll_of_lt {s : State} (h : s.arg0.value.toNat < (countPoll s).rxElapsed.toNat) :
    endPoll s = timeOut (countPoll s) := if_pos h

/-- Up to the timeout RECV's loop starts again (R190). -/
theorem endPoll_of_le {s : State} (h : (countPoll s).rxElapsed.toNat ≤ s.arg0.value.toNat) :
    endPoll s = { countPoll s with engine := .recvLoop } := if_neg (Nat.not_lt.2 h)

/-- Settles O8: the two ends of the sleep, each by what `endPoll` answers there. -/
theorem recvSleepCountsThePoll : Obligations.RecvSleepCountsThePoll := by
  intro s he hw hp hlt
  refine ⟨_, _, step_of_recvSleep he hw, toNat_countPoll_rxElapsed hp hlt, fun hle => endPoll_of_le hle, fun hgt => ?_⟩
  rw [endPoll_of_lt hgt, timeOut_eq]
  exact ⟨rfl, fun ha hn => by simpa [ha] using toNat_pollResult (s := countPoll s) hn, fun ha => by simp [ha]⟩

/-! ### RECV's first pass is a pass of its loop -/

theorem endDrain_engine (q : Nat) (r : RxQueue) (x : Drain) (how : DrainEnd) (s : State) (e : Engine) :
    endDrain q r x how { s with engine := e } = endDrain q r x how s := by
  cases how
  case whole => simp only [endDrain_whole]
  case cut => simp only [endDrain_cut]
  case slotTooLong => simp only [endDrain_slotTooLong]
  case frameTooLong => simp only [endDrain_frameTooLong]

/-- Where the engine stands has no part in an attempt of RECV, which sets it anew. -/
theorem recvAttempt_engine (s : State) (e : Engine) : recvAttempt { s with engine := e } = recvAttempt s := by
  have hsame : firstPending { s with engine := e } = firstPending s := rfl
  unfold recvAttempt
  rw [hsame]
  cases firstPending s with
  | none => rfl
  | some x => exact congrArg _ (endDrain_engine x.1 x.2 _ _ s e)

/-- RECV at its loop with nothing waited yet (R185). -/
def State.recvBegun (s : State) : State := { s.recvFrom s.recvFirst 0 with engine := .recvLoop }

/-- A run depends on its first state through that state's step alone. -/
theorem run_succ_congr {M : Host.Core} {s t : M.State} (h : M.step s = M.step t) (n : Nat) : M.run (n + 1) s = M.run (n + 1) t := by
  rw [Host.Core.run, h, Host.Core.run]

/-- An accepted RECV runs as its loop does from the start (R185). -/
theorem run_recv {s : State} (he : s.engine = .start) (hd : decode s.cmd = .ok .recv) (hw : s.hostWaits) (n : Nat) :
    Sys2Proof.core.run (n + 1) s = Sys2Proof.core.run (n + 1) s.recvBegun := by
  have hstep : step s = step s.recvBegun :=
    calc step s = exec .recv s := (step_of_hostWaits hw (by simp [he])).trans (engineStep_of_start he hd)
      _ = recvAttempt s.recvBegun := (recvAttempt_engine (s.recvFrom s.recvFirst 0) .recvLoop).symm
      _ = step s.recvBegun := (step_of_recvLoop (s := s.recvBegun) rfl hw).symm
  exact run_succ_congr (M := Sys2Proof.core) hstep n

/-- RECV asleep after an attempt that found nothing pending (R185). -/
def State.recvAsleep (s : State) : State := { syncRx s with engine := .recvSleep }

theorem Env.takeRx_host (e : Env) : e.takeRx.2.host = e.host := by
  unfold Env.takeRx
  split <;> rfl

theorem State.recvAsleep_hostWaits {s : State} (hw : s.hostWaits) : s.recvAsleep.hostWaits := by
  change s.env.takeRx.2.host.head? = none ∨ s.env.takeRx.2.host.head? = some .wait
  rwa [Env.takeRx_host]

/-- With nothing pending a pass of RECV's loop goes to sleep (R185). -/
theorem step_of_recvLoop_of_empty {s : State} (he : s.engine = .recvLoop) (hw : s.hostWaits)
    (h : ∀ r ∈ s.rxq, r.pending s.cfg.numSlots = 0) : step s = .next s.recvAsleep :=
  (step_of_recvLoop he hw).trans (recvAttempt_of_empty h)

/-! ### RECV always ends (R194) -/

theorem timeOut_finished (s : State) : (timeOut s).engine = .idle ∧ (timeOut s).done = true := by
  rw [timeOut_eq]
  exact ⟨rfl, rfl⟩

/-- A pass of RECV's loop ends the command or goes to sleep (R185). -/
theorem step_recvLoop_cases {s : State} (he : s.engine = .recvLoop) (hw : s.hostWaits) :
    (∃ u, step s = .next u ∧ u.engine = .idle ∧ u.done = true) ∨ step s = .next s.recvAsleep := by
  cases hf : firstPending s with
  | none => exact .inr (step_of_recvLoop_of_empty he hw (firstPending_eq_none.1 hf))
  | some x => exact .inl ⟨_, (step_of_recvLoop he hw).trans (recvAttempt_of_pending hf rfl), endDrain_finished _ _ _ _ _⟩

/-- At its loop RECV ends within `k` polls, of two steps each, if `k` more poll intervals exceed the timeout. -/
theorem recvLoop_ends (k : Nat) {s : State} (he : s.engine = .recvLoop) (hw : s.hostWaits) (hp : s.cfg.legal)
    (hle : s.rxElapsed.toNat ≤ s.arg0.value.toNat) (hlt : s.arg0.value.toNat < s.rxElapsed.toNat + k * s.cfg.pollIntervalUs) :
    ∃ n ≤ 2 * k, ∃ u, Sys2Proof.core.run n s = .next u ∧ u.engine = .idle ∧ u.done = true := by
  induction k generalizing s with
  | zero => omega
  | succ k ih =>
    rcases step_recvLoop_cases he hw with ⟨u, hstep, hend⟩ | hstep
    · exact ⟨1, by omega, u, core_run_succ hstep 0, hend⟩
    · have hwake : step s.recvAsleep = .next (endPoll s.recvAsleep) := step_of_recvSleep rfl (State.recvAsleep_hostWaits hw)
      have hruns (n : Nat) : Sys2Proof.core.run (n + 1 + 1) s = Sys2Proof.core.run n (endPoll s.recvAsleep) :=
        (core_run_succ hstep _).trans (core_run_succ hwake n)
      have hcount : (countPoll s.recvAsleep).rxElapsed.toNat = s.rxElapsed.toNat + s.cfg.pollIntervalUs :=
        toNat_countPoll_rxElapsed hp (show s.rxElapsed.toNat < 2 ^ 63 by omega)
      by_cases hgt : s.arg0.value.toNat < (countPoll s.recvAsleep).rxElapsed.toNat
      · exact ⟨2, by omega, _, hruns 0, by rw [endPoll_of_lt (s := s.recvAsleep) hgt]; exact timeOut_finished _⟩
      · have hloop := endPoll_of_le (s := s.recvAsleep) (Nat.not_lt.1 hgt)
        rw [Nat.succ_mul] at hlt
        obtain ⟨n, hn, u, hrun, hend⟩ := ih (s := { countPoll s.recvAsleep with engine := .recvLoop }) rfl
          (State.recvAsleep_hostWaits hw) hp (Nat.not_lt.1 hgt)
          (show s.arg0.value.toNat < (countPoll s.recvAsleep).rxElapsed.toNat + k * s.cfg.pollIntervalUs by omega)
        exact ⟨n + 2, by omega, u, (hruns n).trans (hloop ▸ hrun), hend⟩

/-- Settles O39: one poll more than the intervals that fit the timeout exceeds it. -/
theorem recvAlwaysFinishes : Obligations.RecvAlwaysFinishes := by
  intro s he hd hw hp
  have hpoll : 0 < s.cfg.pollIntervalUs := hp.2.2.2.2.1.1
  have hlt : s.arg0.value.toNat < (s.arg0.value.toNat / s.cfg.pollIntervalUs + 1) * s.cfg.pollIntervalUs :=
    (Nat.div_lt_iff_lt_mul hpoll).1 (Nat.lt_succ_self _)
  obtain ⟨n, hn, u, hrun, hend⟩ := recvLoop_ends (s.arg0.value.toNat / s.cfg.pollIntervalUs + 1) (s := s.recvBegun) rfl hw hp
    (Nat.zero_le _) (by simpa [State.recvBegun] using hlt)
  cases n with
  | zero => cases hrun; cases hend.1
  | succ n => exact ⟨n + 1, hn, u, (run_recv he hd hw n).trans hrun, hend⟩

/-! ### RECV's rounds (R192) -/

/-- A sync that publishes nothing changes the substrate's script alone (R178). -/
theorem syncRx_of_idle_choice {s : State} (hs : s.ringsInv) {rest : List RxChoice} (hc : s.env.rxScript = [] :: rest) :
    syncRx s = { s with env := { s.env with rxScript := rest } } := by
  obtain ⟨-, -, -, -, hrx⟩ := hs
  have htake : s.env.takeRx = ([], { s.env with rxScript := rest }) := Env.takeRx_of_cons hc
  have hq : (syncRx s).rxq = s.rxq := by
    refine List.ext_getElem? fun i => ?_
    rw [getElem?_syncRx, htake]
    cases hr : s.rxq[i]? with
    | none => rfl
    | some r =>
      obtain ⟨-, -, htail, -⟩ := hrx r (List.mem_of_getElem? hr)
      exact congrArg some (RxQueue.sync_nil htail)
  have he : (syncRx s).env = { s.env with rxScript := rest } := congrArg Prod.snd htake
  calc syncRx s = { s with rxq := (syncRx s).rxq, env := (syncRx s).env } := rfl
    _ = _ := by rw [hq, he]

/-- RECV at its loop after `k` failed polls, `rest` being left of the substrate's script. -/
def State.recvPolled (s : State) (k : Nat) (rest : List RxChoice) : State :=
  { s.recvBegun with
    rxElapsed := BitVec.ofNat 64 (k * s.cfg.pollIntervalUs)
    rxPolls := k
    env := { s.env with rxScript := rest } }

theorem State.recvBegun_eq (s : State) : s.recvBegun = s.recvPolled 0 s.env.rxScript := by
  simp [State.recvPolled, State.recvBegun, State.recvFrom]

/-- One poll more. -/
theorem countPoll_recvPolled_rxElapsed (s : State) (k : Nat) (rest : List RxChoice) :
    (countPoll (s.recvPolled k rest)).rxElapsed = BitVec.ofNat 64 ((k + 1) * s.cfg.pollIntervalUs) := by
  rw [countPoll_rxElapsed, Nat.succ_mul, BitVec.ofNat_add]
  rfl

/-- The sleep after a poll that does not exceed the timeout leads back to the loop (R190). -/
theorem endPoll_recvPolled {s : State} {k : Nat} (hle : (k + 1) * s.cfg.pollIntervalUs ≤ s.arg0.value.toNat) (rest : List RxChoice) :
    endPoll { s.recvPolled k rest with engine := .recvSleep } = s.recvPolled (k + 1) rest := by
  have hcount := countPoll_recvPolled_rxElapsed s k rest
  have hno : (countPoll (s.recvPolled k rest)).rxElapsed.toNat ≤ s.arg0.value.toNat := by
    rw [hcount, BitVec.toNat_ofNat]
    exact (Nat.mod_le _ _).trans hle
  calc endPoll { s.recvPolled k rest with engine := .recvSleep }
    _ = { s.recvPolled (k + 1) rest with rxElapsed := (countPoll (s.recvPolled k rest)).rxElapsed } :=
      endPoll_of_le (s := { s.recvPolled k rest with engine := .recvSleep }) hno
    _ = s.recvPolled (k + 1) rest := by rw [hcount]; rfl

section
variable {s : State} (hw : s.hostWaits) (hs : s.ringsInv) (hempty : ∀ r ∈ s.rxq, r.pending s.cfg.numSlots = 0)
include hw hs hempty

/-- A poll that finds nothing and does not exceed the timeout takes two steps (R190). -/
theorem run_recvPolled_succ (n k : Nat) (rest : List RxChoice) (hle : (k + 1) * s.cfg.pollIntervalUs ≤ s.arg0.value.toNat) :
    Sys2Proof.core.run (n + 1 + 1) (s.recvPolled k ([] :: rest)) = Sys2Proof.core.run n (s.recvPolled (k + 1) rest) := by
  have hasleep : (s.recvPolled k ([] :: rest)).recvAsleep = { s.recvPolled k rest with engine := .recvSleep } := by
    rw [State.recvAsleep, syncRx_of_idle_choice (s := s.recvPolled k ([] :: rest)) hs rfl]
    rfl
  have hpass : step (s.recvPolled k ([] :: rest)) = .next { s.recvPolled k rest with engine := .recvSleep } :=
    hasleep ▸ step_of_recvLoop_of_empty (s := s.recvPolled k ([] :: rest)) rfl hw hempty
  have hwake : step { s.recvPolled k rest with engine := .recvSleep } = .next (s.recvPolled (k + 1) rest) :=
    endPoll_recvPolled hle rest ▸ step_of_recvSleep (s := { s.recvPolled k rest with engine := .recvSleep }) rfl hw
  exact (core_run_succ hpass _).trans (core_run_succ hwake n)

/-- As many polls as the substrate publishes nothing at, short of the timeout. -/
theorem run_recvPolled (n m k : Nat) (rest : List RxChoice) (hle : (k + m) * s.cfg.pollIntervalUs ≤ s.arg0.value.toNat) :
    Sys2Proof.core.run (2 * m + n) (s.recvPolled k (List.replicate m [] ++ rest)) =
      Sys2Proof.core.run n (s.recvPolled (k + m) rest) := by
  induction m generalizing k with
  | zero => rw [Nat.mul_zero, Nat.zero_add]; rfl
  | succ m ih =>
    have hnext : (k + 1) * s.cfg.pollIntervalUs ≤ s.arg0.value.toNat := (Nat.mul_le_mul_right _ (by omega)).trans hle
    have hk : k + (m + 1) = k + 1 + m := by omega
    rw [show 2 * (m + 1) + n = 2 * m + n + 1 + 1 by omega, hk, ← ih (k + 1) (hk ▸ hle)]
    exact run_recvPolled_succ hw hs hempty _ k _ hnext

omit hs in
/-- The poll after the timeout has been exceeded ends RECV, whatever the substrate publishes at its sync (R190). -/
theorem run_recvPolled_last (n : Nat) (rest : List RxChoice)
    (hgt : s.arg0.value.toNat < (countPoll (s.recvPolled n rest)).rxElapsed.toNat) :
    Sys2Proof.core.run 2 (s.recvPolled n rest) = .next (timeOut (countPoll (s.recvPolled n rest).recvAsleep)) := by
  have hpass : step (s.recvPolled n rest) = .next (s.recvPolled n rest).recvAsleep :=
    step_of_recvLoop_of_empty (s := s.recvPolled n rest) rfl hw hempty
  have hwake : step (s.recvPolled n rest).recvAsleep = .next (endPoll (s.recvPolled n rest).recvAsleep) :=
    step_of_recvSleep rfl (State.recvAsleep_hostWaits (s := s.recvPolled n rest) hw)
  rw [endPoll_of_lt (s := (s.recvPolled n rest).recvAsleep) hgt] at hwake
  exact (core_run_succ hpass 1).trans (core_run_succ hwake 0)

end

/-- A timeout past `n` failed polls: RESULT0 counts one more, and what the last sync published is not looked at (R190). -/
theorem timeOut_recvPolled (s : State) (n : Nat) (c : RxChoice) (rest : List RxChoice) :
    timeOut (countPoll (s.recvPolled n (c :: rest)).recvAsleep) =
      { s.recvPolled (n + 1) rest with
        engine := .idle, done := true, code := if s.arg0.written then .timeout else s.code
        rxq := (syncRx (s.recvPolled n (c :: rest))).rxq
        result0 := if s.arg0.written then pollResult (s.recvPolled (n + 1) rest) else s.result0
        env := if s.arg0.written then (s.recvPolled (n + 1) rest).env.drawn else (s.recvPolled (n + 1) rest).env } := by
  have hpolled : countPoll (s.recvPolled n (c :: rest)).recvAsleep =
      { s.recvPolled (n + 1) rest with engine := .recvSleep, rxq := (syncRx (s.recvPolled n (c :: rest))).rxq } :=
    calc countPoll (s.recvPolled n (c :: rest)).recvAsleep
      _ = { s.recvPolled (n + 1) rest with
            engine := .recvSleep, rxq := (syncRx (s.recvPolled n (c :: rest))).rxq
            rxElapsed := (countPoll (s.recvPolled n (c :: rest))).rxElapsed } := rfl
      _ = _ := by rw [countPoll_recvPolled_rxElapsed]; rfl
  rw [hpolled, timeOut_eq]
  rfl

/-- Settles O38: the polls up to the timeout go back to the loop, and the next one exceeds it. -/
theorem recvTimesOutWithinOneInterval : Obligations.RecvTimesOutWithinOneInterval := by
  intro s P c rest he hd hw hs hempty hP hscript
  obtain ⟨n, hn⟩ : ∃ n, n = s.arg0.value.toNat / s.cfg.pollIntervalUs := ⟨_, rfl⟩
  rw [← hn] at hP
  subst hP
  rw [Nat.add_sub_cancel] at hscript
  have hp := hs.1
  obtain ⟨hpoll, hpollMax⟩ := hp.2.2.2.2.1
  have hle : n * s.cfg.pollIntervalUs ≤ s.arg0.value.toNat := hn ▸ Nat.div_mul_le_self _ _
  have hgt : s.arg0.value.toNat < (n + 1) * s.cfg.pollIntervalUs :=
    hn ▸ (Nat.div_lt_iff_lt_mul hpoll).1 (Nat.lt_succ_self _)
  have hsucc : (n + 1) * s.cfg.pollIntervalUs = n * s.cfg.pollIntervalUs + s.cfg.pollIntervalUs := Nat.succ_mul _ _
  have helapsed : (BitVec.ofNat 64 ((n + 1) * s.cfg.pollIntervalUs)).toNat = (n + 1) * s.cfg.pollIntervalUs := by
    rw [BitVec.toNat_ofNat, Nat.mod_eq_of_lt (by omega)]
  have hpolls := run_recvPolled hw hs hempty 2 n 0 (c :: rest) (by rwa [Nat.zero_add])
  rw [Nat.zero_add] at hpolls
  have hlast := run_recvPolled_last hw hempty n (c :: rest)
    (by rw [countPoll_recvPolled_rxElapsed, helapsed]; exact hgt)
  have hfirst : Sys2Proof.core.run (2 * (n + 1)) s = Sys2Proof.core.run (2 * (n + 1)) (s.recvPolled 0 s.env.rxScript) :=
    State.recvBegun_eq s ▸ run_recv he hd hw (2 * n + 1)
  rw [hscript] at hfirst
  refine ⟨_, hfirst.trans (hpolls.trans hlast), ?_⟩
  rw [timeOut_recvPolled]
  refine ⟨rfl, rfl, rfl, rfl, helapsed, ?_, ?_, rfl, rfl, ?_, fun ha hlt => ?_, fun ha => ?_,
    rfl, rfl, rfl⟩
  · exact helapsed.symm ▸ hgt
  · change (BitVec.ofNat 64 ((n + 1) * s.cfg.pollIntervalUs)).toNat ≤ _
    omega
  · cases s.arg0.written <;> rfl
  · exact (congrArg BitVec.toNat (if_pos ha)).trans (toNat_pollResult (s := s.recvPolled (n + 1) rest) hlt)
  · simp [ha]

end Sys2Proof.Machine

/-! SUPPORT. VERIFY (43_verifier.md): its two checks in order, and the first difference of two frames. -/

namespace Sys2Proof.Machine

/-! ### The content check (R222) -/

/-- Past the length check VERIFY is the content check (R220). -/
theorem exec_verify_of_fmLen_eq {s : State} (hl : s.fmLen = s.rfLen) :
    exec .verify s = need (compareFrom s.fmLen.toNat 0 s.fm s.rf) fun x => .next (reportComparison x s) :=
  if_neg (not_not_intro hl)

/-- At two different bytes the content check ends, and the bytes after them are not read (R222). -/
theorem compareFrom_of_differ {s : State} {i : Nat} {x y : Byte} (n : Nat) (hf : s.byteAt .fm i = some x)
    (hr : s.byteAt .rf i = some y) (hne : x ≠ y) :
    compareFrom (n + 1) i s.fm s.rf = .ok (some { offset := i, expected := x, actual := y }) := by
  rw [compareFrom_succ, show Table.read s.fm i = some x from hf, show Table.read s.rf i = some y from hr]
  exact if_pos hne

/-- A frame that stands in both buffers has no difference (R223). -/
theorem compareFrom_of_holds {s : State} {d : List Byte} (hf : s.holds .fm 0 d) (hr : s.holds .rf 0 d) :
    compareFrom d.length 0 s.fm s.rf = .ok none :=
  compareFrom_of_equal 0 hf hr

/-- The last byte of a run stands at its offset. -/
theorem State.byteAt_of_holds_concat {s : State} {sp : Space} {d : List Byte} {x : Byte} (h : s.holds sp 0 (d ++ [x])) :
    s.byteAt sp d.length = some x := by
  have hx := (State.holds_append.1 h).2 0 Nat.zero_lt_one
  rwa [Nat.zero_add] at hx

/-! ### The first difference of two frames -/

/-- Different lists of one length agree up to a first position at which they differ. -/
theorem exists_first_difference {α : Type} {d e : List α} (hl : d.length = e.length) (hne : d ≠ e) :
    ∃ p x y d' e', x ≠ y ∧ d = p ++ [x] ++ d' ∧ e = p ++ [y] ++ e' := by
  induction d generalizing e with
  | nil => exact absurd (List.length_eq_zero_iff.1 hl.symm).symm hne
  | cons a d ih =>
    cases e with
    | nil => cases hl
    | cons b e =>
      by_cases hab : a = b
      · subst hab
        obtain ⟨p, x, y, d', e', hxy, rfl, rfl⟩ := ih (Nat.succ.inj hl) fun h => hne (congrArg (a :: ·) h)
        exact ⟨a :: p, x, y, d', e', hxy, rfl, rfl⟩
      · exact ⟨[], a, b, d, e, hab, rfl, rfl⟩

/-! ### The obligations -/

/-- Settles O40: the length check comes first. -/
theorem verifyReportsLengthMismatch : Obligations.VerifyReportsLengthMismatch :=
  fun _ hne => if_pos hne

/-- Settles O41: VERIFY goes on past the equal bytes and ends at the first that differs. -/
theorem verifyReportsTheFirstDifference : Obligations.VerifyReportsTheFirstDifference := by
  intro s d x y hl hd hf hr hne
  obtain ⟨n, hn⟩ := exec_verify_of_equal hl hd (State.holds_append.1 hf).1 (State.holds_append.1 hr).1
  rw [hn, compareFrom_of_differ n (State.byteAt_of_holds_concat hf) (State.byteAt_of_holds_concat hr) hne]
  rfl

/-- Settles O42: frames of different lengths end at the length check, equal ones pass the content check, and different ones of
one length end at their first difference. -/
theorem verifySucceedsOnlyOnEquality : Obligations.VerifySucceedsOnlyOnEquality := by
  intro s d e hd he hf hr
  by_cases hl : s.fmLen = s.rfLen
  · by_cases hde : d = e
    · subst hde
      refine ⟨finish .ok s, ?_, iff_of_true rfl rfl, fun _ => rfl⟩
      rw [exec_verify_of_fmLen_eq hl, ← hd, compareFrom_of_holds hf hr]
      rfl
    · obtain ⟨p, x, y, d', e', hxy, rfl, rfl⟩ := exists_first_difference (by rw [hd, he, hl]) hde
      have hp : p.length < s.fmLen.toNat := by
        rw [← hd]
        simp only [List.length_append, List.length_singleton]
        omega
      exact ⟨_, verifyReportsTheFirstDifference s p x y hl hp (State.holds_append.1 hf).1 (State.holds_append.1 hr).1 hxy,
        iff_of_false nofun hde, fun h => absurd h hde⟩
  · have hde : d ≠ e := by
      rintro rfl
      exact hl (BitVec.eq_of_toNat_eq (hd.symm.trans he))
    exact ⟨_, verifyReportsLengthMismatch s hl, iff_of_false nofun hde, fun h => absurd h hde⟩

end Sys2Proof.Machine

/-! SUPPORT. Host writes a busy or halted engine ignores, with OVERRUN or without (R40, R41, R243, R245), and the ends R246 and
R247 name. -/

namespace Sys2Proof.Machine

/-! ### Host writes by what R245 guards -/

/-- An 8-bit access anywhere in the two buffers reaches a byte (R65, R67). -/
theorem target_of_buffer {addr : HostAddr} (h1 : 0x10000 ≤ addr.toNat) (h2 : addr.toNat < 0x30000) :
    ∃ sp a, target 8 addr = some (.byte sp a) := by
  rw [target, if_neg (by omega), if_neg (by omega)]
  by_cases hfm : addr.toNat < 0x20000
  · exact ⟨.fm, addr.toNat - 0x10000, by rw [if_pos hfm, if_pos rfl]⟩
  · exact ⟨.rf, addr.toNat - 0x20000, by rw [if_neg hfm, if_pos h2, if_pos rfl]⟩

/-- A busy or halted engine ignores a write of CMD or an RW register and sets OVERRUN (R245). -/
theorem writeReg_of_not_accepting {s : State} (ha : s.accepting = false) (v : Word) :
    ∀ o ∈ [0x000, 0x008, 0x00C, 0x010, 0x020, 0x024, 0x028, 0x02C, 0x030, 0x034, 0x038, 0x03C, 0x040, 0x044, 0x048, 0x04C],
      writeReg (regAt o) v s = setOverrun s := by
  have hg : ∀ t, guardWrite s t = setOverrun s := guardWrite_of_not_accepting ha
  simp only [List.forall_mem_cons, List.not_mem_nil, false_implies, implies_true, and_true]
  exact ⟨hg _, hg _, hg _, hg _, hg _, hg _, hg _, hg _, hg _, hg _, hg _, hg _, hg _, hg _, hg _, hg _⟩

/-- A write R245 guards, in a busy or halted engine, sets OVERRUN and does nothing else. -/
theorem hostWrite_of_guardedWrite {s : State} (ha : s.accepting = false) {width : Nat} {addr : HostAddr}
    (hg : guardedWrite width addr) (v : Word) : hostWrite width addr v s = .next (setOverrun s) := by
  obtain ⟨rfl, h1, h2⟩ | ⟨rfl, ho⟩ := hg
  · obtain ⟨sp, a, ht⟩ := target_of_buffer h1 h2
    rw [hostWrite, ht]
    exact congrArg Host.Outcome.next (guardWrite_of_not_accepting ha _)
  · obtain ⟨h1, h2⟩ : addr.toNat < 0x1000 ∧ addr.toNat % 4 = 0 := by
      simp only [List.mem_cons, List.not_mem_nil, or_false] at ho
      omega
    rw [hostWrite, target_register h1 h2]
    exact congrArg Host.Outcome.next (writeReg_of_not_accepting ha v _ ho)

/-- Settles O47: an engine that is busy or halted accepts no write. -/
theorem writesWhileBusyOrHaltedAreIgnored : Obligations.WritesWhileBusyOrHaltedAreIgnored := by
  intro s w a v rest hbusy hh hg
  have ha : (s.performed (.write w a v) rest).accepting = false := by
    rw [Bool.eq_false_iff, ne_eq, State.accepting_eq_true]
    rintro ⟨he, hf⟩
    rcases hbusy with hb | hb
    · exact hb he
    · exact Bool.false_ne_true (hf.symm.trans hb)
  rw [step_of_hostWrite hh, hostWrite_of_guardedWrite ha hg]
  rfl

/-- A write that the address map allows and R245 does not guard reaches a read-only or reserved offset of the window, and is
ignored in every phase (R40, R41). -/
theorem step_of_unguardedWrite {s t : State} {width : Nat} {addr : HostAddr} {v : Word} {rest : List HostOp}
    (hh : s.env.host = .write width addr v :: rest) (hg : ¬ guardedWrite width addr) (h : step s = .next t) :
    t = s.performed (.write width addr v) rest := by
  by_cases hl : legalAccess width addr
  · obtain ⟨hlt, rfl, h4⟩ | ⟨hge, hlt, hwidth⟩ := hl
    · have hro : addr.toNat = 0x004 ∨ (0x014 ≤ addr.toNat ∧ addr.toNat ≤ 0x01C) ∨ 0x050 ≤ addr.toNat := by
        simp only [guardedWrite, List.mem_cons, List.not_mem_nil, or_false, true_and] at hg
        omega
      exact Host.Outcome.next.inj (h.symm.trans (writesToReadOnlyOffsetsAreIgnored s addr v rest hh hlt h4 hro))
    · exact absurd (.inl ⟨hwidth, hge, hlt⟩) hg
  · rw [(illegalHostAccessesAreRefused s width addr _ rest (.inr ⟨v, rfl⟩) hh).2 hl] at h
    cases h

/-! ### The halted engine -/

/-- Where the host neither writes nor resets, a step of an idle engine changes the environment alone (R73, R283). -/
theorem step_of_idle_of_not_write {s t : State} (he : s.engine = .idle) (hr : s.env.host.head? ≠ some .reset)
    (hw : ∀ w a v, s.env.host.head? ≠ some (.write w a v)) (h : step s = .next t) : ∃ e, t = { s with env := e } := by
  have hidle : ∀ u : State, u.engine = .idle → engineStep u = .next u := fun u hu => by rw [engineStep, hu]
  rcases step_eq_next h with ⟨u, hu, -, hmove⟩ | ⟨op, rest, hh, hop⟩
  · rcases hu with rfl | ⟨rest, -, rfl⟩
    · exact ⟨u.env, Host.Outcome.next.inj (hmove.symm.trans (hidle u he))⟩
    · exact ⟨_, Host.Outcome.next.inj (hmove.symm.trans (hidle (s.withStream rest) he))⟩
  · have hhead : s.env.host.head? = some op := by rw [hh, List.head?_cons]
    rcases hop with ⟨_, _, -, _, ht⟩ | ⟨w, a, v, _, rfl, -⟩ | ⟨-, -, ht⟩ | ⟨rfl, -⟩
    · exact ⟨_, ht⟩
    · exact absurd hhead (hw w a v)
    · exact ⟨_, ht⟩
    · exact absurd hhead hr

/-- Settles O46, by what the host does: a guarded write, any other write, or none. -/
theorem haltedEngineOnlySetsOverrun : Obligations.HaltedEngineOnlySetsOverrun := by
  intro s t hf he h hr
  by_cases hw : ∃ w a v, s.env.host.head? = some (.write w a v)
  · obtain ⟨w, a, v, hhead⟩ := hw
    obtain ⟨rest, hh⟩ := List.head?_eq_some_iff.1 hhead
    by_cases hg : guardedWrite w a
    · rw [writesWhileBusyOrHaltedAreIgnored s w a v rest (.inr hf) hh hg] at h
      cases h
      exact ⟨rfl, iff_of_true rfl (.inr ⟨w, a, v, hhead, hg⟩)⟩
    · cases step_of_unguardedWrite hh hg h
      refine ⟨rfl, (or_iff_left ?_).symm⟩
      rintro ⟨w', a', v', hhead', hg'⟩
      cases hhead.symm.trans hhead'
      exact hg hg'
  · obtain ⟨e, rfl⟩ := step_of_idle_of_not_write he hr (fun w a v hv => hw ⟨w, a, v, hv⟩) h
    exact ⟨rfl, (or_iff_left fun ⟨w, a, v, hv, _⟩ => hw ⟨w, a, v, hv⟩).symm⟩

/-! ### The illegal word and the span out of range -/

/-- Settles O5: the write reaches CMD, and `issue` finishes the word at once. -/
theorem illegalCmdWriteFinishesAtOnce : Obligations.IllegalCmdWriteFinishesAtOnce := by
  intro s w e rest he hf hd hh
  have ha : (s.performed (.write 32 0 w) rest).accepting = true := State.accepting_eq_true.2 ⟨he, hf⟩
  rw [step_of_write hh (by decide) (by decide)]
  change Host.Outcome.next (guardWrite _ (issue w _)) = _
  rw [guardWrite_of_accepting ha, issue, hd]
  rfl

/-- Settles O15: with both operands written CSUM reports the span it was given. -/
theorem csumOutOfRangeIsBadOperand : Obligations.CsumOutOfRangeIsBadOperand := by
  intro s sp h0 h1 hlt
  have hmarked : (s.arg0.written && s.arg1.written) = true := by rw [h0, h1]; rfl
  rw [exec_csum_of_lt sp hlt]
  simp [hmarked]

end Sys2Proof.Machine

/-! SUPPORT. The pending receive slots (R178, R282): the substrate alone adds one, and RECV's commit only takes some away. -/

namespace Sys2Proof.Machine

/-! ### The pending slots of one queue -/

/-- The pending slots left by a commit of `m` of them were pending before it, so they have been written (R189). -/
theorem RxQueue.slotWritten_committed {p : Params} (hp : p.legal) {r : RxQueue} (h : r.inv p)
    (hw : ∀ j < r.pending p.numSlots, r.slotWritten p (ringAdd p.numSlots r.head j).toNat) {m : Nat}
    (hm : m ≤ r.pending p.numSlots) :
    ∀ j < RxQueue.pending p.numSlots { r with head := ringAdd p.numSlots r.head m, cur := ringAdd p.numSlots r.head m },
      r.slotWritten p (ringAdd p.numSlots (ringAdd p.numSlots r.head m) j).toNat := by
  obtain ⟨-, -, hn, -⟩ := hp
  obtain ⟨-, hhead, htail, -⟩ := h
  intro j hj
  rw [RxQueue.pending, ringGap_ringAdd_head hn.2 hhead htail hm] at hj
  rw [ringAdd_ringAdd (by omega) hn.2]
  exact hw (m + j) (Nat.add_lt_of_lt_sub' hj)

/-! ### The pending slots of every queue -/

/-- States with the same parameters and receive queues have the same pending slots. -/
theorem State.pendingInv_of_same {s t : State} (h : s.pendingInv) (hc : t.cfg = s.cfg) (hrx : t.rxq = s.rxq) : t.pendingInv := by
  unfold State.pendingInv
  rw [hc, hrx]
  exact h

/-- An attempt of RECV leaves each queue as it was, or commits some pending slots and lets the substrate publish behind the others. -/
theorem recvAttempt_pendingInv {s t : State} (hs : s.ringsInv) (hw : s.pendingInv) (h : recvAttempt s = .next t) :
    t.pendingInv := by
  obtain ⟨hp, -, -, -, hrx⟩ := id hs
  obtain ⟨-, hlen⟩ := recvAttempt_frame h
  intro r' hr'
  rw [(recvAttempt_sameOperands h).cfg]
  obtain ⟨q, hq, rfl⟩ := List.mem_iff_getElem.1 hr'
  obtain ⟨r, hr⟩ : ∃ r, s.rxq[q]? = some r := ⟨_, List.getElem?_eq_getElem (hlen ▸ hq)⟩
  have hmem : r ∈ s.rxq := List.mem_of_getElem? hr
  rcases recvAttempt_rxq hs h hr (List.getElem?_eq_getElem hq) with heq | ⟨m, hm, -, heq⟩ <;> rw [heq]
  · exact hw r hmem
  · exact fun j hj => RxQueue.slotWritten_sync hp (RxQueue.inv_committed hp (hrx r hmem) m)
      (RxQueue.slotWritten_committed hp (hrx r hmem) (hw r hmem) hm) q _ hj

theorem exec_pendingInv {i : Instr} {s t : State} (hs : s.ringsInv) (hw : s.pendingInv) (h : exec i s = .next t) :
    t.pendingInv := by
  by_cases hi : i = .recv
  · subst hi
    exact recvAttempt_pendingInv (s := s.recvFrom s.recvFirst 0) hs hw h
  · exact State.pendingInv_of_same hw (exec_sameOperands h).cfg (exec_rxq hi h)

theorem engineStep_pendingInv {s t : State} (hs : s.ringsInv) (hw : s.pendingInv) (h : engineStep s = .next t) :
    t.pendingInv := by
  rcases engineStep_eq_next h with ⟨-, rfl⟩ | ⟨-, ⟨_, -, hx⟩ | ⟨-, rfl⟩⟩ | ⟨-, hx⟩ | ⟨-, rfl⟩ | ⟨-, hx⟩ | ⟨-, rfl⟩
  · exact hw
  · exact exec_pendingInv hs hw hx
  · exact hw
  · exact State.pendingInv_of_same hw (sendAttempt_sameOperands hx).cfg (sendAttempt_rxq hx)
  · exact hw
  · exact recvAttempt_pendingInv hs hw hx
  · exact State.pendingInv_of_same hw (endPoll_sameOperands s).cfg (endPoll_rings s).2

/-! ### The pending slots: reset -/

@[simp] theorem RxQueue.pending_reset (n : Nat) : RxQueue.reset.pending n = 0 := by
  simp [RxQueue.pending, RxQueue.reset, ringGap]

/-- Right after reset no slot is pending (R282). -/
theorem pendingInv_resetWith (p : Params) (e : Env) : (State.resetWith p e).pendingInv := by
  intro r hr j hj
  rw [List.eq_of_mem_replicate hr, RxQueue.pending_reset] at hj
  exact absurd hj (Nat.not_lt_zero j)

/-- Settles O58: with the rings in order, a slot becomes pending only by a sync, which writes it; a reset leaves none pending. -/
theorem stepKeepsPendingSlotsWritten : Obligations.StepKeepsPendingSlotsWritten := by
  intro s t hs hw h
  refine (step_keeps (P := fun u => u.ringsInv ∧ u.pendingInv) (fun _ _ hu => hu) ?_ ?_ ?_ ⟨hs, hw⟩ h).2
  · exact fun u _ hu he => ⟨engineStep_ringsInv hu.1 he, engineStep_pendingInv hu.1 hu.2 he⟩
  · intro tgt v u hu
    obtain ⟨hc, htx, hrx⟩ := writeTarget_rings tgt v u
    exact ⟨State.ringsInv_of_same hu.1 hc htx hrx, State.pendingInv_of_same hu.2 hc hrx⟩
  · exact fun u hu => ⟨ringsInv_resetWith hu.1.1 u.env, pendingInv_resetWith u.cfg u.env⟩

end Sys2Proof.Machine

/-! SUPPORT. FATAL, OVERRUN and the recorded fault, which nothing but a reset clears (R260, R280, R293), and the state a reset leaves
(R281, R282). -/

namespace Sys2Proof.Machine

/-! ### What only a reset clears -/

/-- FATAL, OVERRUN and the recorded fault are still set in `t` where they were set in `s`. -/
structure State.Latched (s t : State) : Prop where
  fatal : s.fatal = true → t.fatal = true
  overrun : s.overrun = true → t.overrun = true
  faulted : s.faulted = true → t.faulted = true

/-- A state that shows the same three is latched. -/
theorem State.Latched.of_same {s t : State} (hfatal : t.fatal = s.fatal) (hover : t.overrun = s.overrun)
    (hfaulted : t.faulted = s.faulted) : s.Latched t :=
  ⟨hfatal.trans, hover.trans, hfaulted.trans⟩

theorem sendAttempt_fatal {s t : State} (hf : s.fatal = true) (h : sendAttempt s = .next t) : t.fatal = true := by
  rcases sendAttempt_eq_next h with ⟨-, rfl⟩ | ⟨_, _, -, ⟨-, rfl⟩ | ⟨-, _, -, rfl⟩⟩
  · exact hf
  · rfl
  · exact hf

theorem recvAttempt_fatal {s t : State} (hf : s.fatal = true) (h : recvAttempt s = .next t) : t.fatal = true := by
  rcases recvAttempt_eq_next h with ⟨-, rfl⟩ | ⟨q, r, -, rfl⟩
  · exact hf
  · obtain ⟨-, -, -, hclear⟩ := endDrain_keeps q r (drainQueue q r s).1 (drainQueue q r s).2 s
    simpa [hf] using hclear

/-- No command clears FATAL: where it sets it anew, the command halts (R243). -/
theorem exec_fatal {i : Instr} {s t : State} (hf : s.fatal = true) (h : exec i s = .next t) : t.fatal = true := by
  cases i with
  | csum sp => rcases execCsum_eq_next h with ⟨-, rfl⟩ | ⟨-, _, -, rfl⟩ <;> exact hf
  | wrapsum => cases execWrapsum_eq_next h; exact hf
  | build =>
    rcases execBuild_eq_next h with ⟨-, rfl⟩ | ⟨-, -, rfl⟩
    · exact Bool.or_eq_true_iff.2 (.inr hf)
    · obtain ⟨-, -, hfatal, -⟩ := layOut_keeps s.spec.fields s.spec.frameLen.value.toNat s
      exact hfatal.trans hf
  | send => exact sendAttempt_fatal (s := { s with txRounds := 0 }) hf h
  | recv => exact recvAttempt_fatal (s := s.recvFrom s.recvFirst 0) hf h
  | verify =>
    rcases execVerify_eq_next h with ⟨-, rfl⟩ | ⟨-, d, -, rfl⟩
    · exact hf
    · cases d <;> exact hf

theorem exec_latched {i : Instr} {s t : State} (h : exec i s = .next t) : s.Latched t where
  fatal hf := exec_fatal hf h
  overrun := (exec_sameOperands h).overrun.trans
  faulted hf := by rw [exec_faulted h, hf, Bool.true_or]

theorem endPoll_latched (s : State) : s.Latched (endPoll s) := by
  unfold endPoll
  split
  · rw [timeOut_eq]; exact .of_same rfl rfl rfl
  · exact .of_same rfl rfl rfl

theorem engineStep_latched {s t : State} (h : engineStep s = .next t) : s.Latched t := by
  rcases engineStep_eq_next h with ⟨-, rfl⟩ | ⟨-, ⟨_, -, hx⟩ | ⟨-, rfl⟩⟩ | ⟨-, hx⟩ | ⟨-, rfl⟩ | ⟨-, hx⟩ | ⟨-, rfl⟩
  · exact .of_same rfl rfl rfl
  · exact exec_latched hx
  · exact .of_same rfl rfl rfl
  · exact ⟨fun hf => sendAttempt_fatal hf hx, (sendAttempt_sameOperands hx).overrun.trans, (sendAttempt_faulted hx).trans⟩
  · exact .of_same rfl rfl rfl
  · exact ⟨fun hf => recvAttempt_fatal hf hx, (recvAttempt_sameOperands hx).overrun.trans, (recvAttempt_faulted hx).trans⟩
  · exact endPoll_latched s

/-- A host write sets OVERRUN or leaves all three; an accepted command word leaves them too (R241, R245). -/
theorem writeTarget_latched (tgt : Target) (v : Word) (s : State) : s.Latched (writeTarget tgt v s) := by
  rcases writeTarget_cases tgt v s with h | ⟨-, h⟩ | ⟨-, h⟩ | ⟨-, _, _, _, _, _, _, h, -⟩ | ⟨-, sp, _, -, h⟩ <;> rw [h]
  · exact .of_same rfl rfl rfl
  · exact ⟨id, fun _ => rfl, id⟩
  · exact .of_same (issue_keeps v s rfl rfl) (issue_keeps v s rfl rfl) (issue_keeps v s rfl rfl)
  · exact .of_same rfl rfl rfl
  · cases sp <;> exact .of_same rfl rfl rfl

/-- Settles O45: neither the engine nor a host operation other than a reset clears any of the three. -/
theorem onlyResetClearsFatalAndOverrun : Obligations.OnlyResetClearsFatalAndOverrun := by
  intro s t h hreset
  have hlatched : s.Latched t := by
    rcases step_eq_next h with ⟨s', hs', -, he⟩ | ⟨op, rest, hh, hop⟩
    · rcases hs' with rfl | ⟨rest, -, rfl⟩
      · exact engineStep_latched he
      · obtain ⟨hfatal, hover, hfaulted⟩ := engineStep_latched he
        exact ⟨hfatal, hover, hfaulted⟩
    · rcases hop with ⟨_, _, -, _, rfl⟩ | ⟨_, _, v, tgt, -, -, rfl⟩ | ⟨-, -, rfl⟩ | ⟨rfl, -⟩
      · exact .of_same rfl rfl rfl
      · obtain ⟨hfatal, hover, hfaulted⟩ := writeTarget_latched tgt v (s.performed op rest)
        exact ⟨hfatal, hover, hfaulted⟩
      · exact .of_same rfl rfl rfl
      · exact absurd (by rw [hh]; rfl) hreset
  exact ⟨hlatched.fatal, hlatched.overrun, hlatched.faulted⟩

/-! ### The state a reset leaves -/

theorem step_of_reset {s : State} {rest : List HostOp} (h : s.env.host = .reset :: rest) :
    step s = .next (State.resetWith s.cfg (s.performed .reset rest).env) := by
  rw [step, machineStep, h]
  rfl

/-- Every usable slot of a transmit queue is free after reset (R282). -/
theorem TxQueue.free_reset {p : Params} (hp : p.legal) : (TxQueue.reset p).free p.numSlots = p.numSlots - 1 := by
  obtain ⟨-, -, hn, -⟩ := hp
  have htail : (TxQueue.reset p).tail = ringAdd p.numSlots 0 (p.numSlots - 1) := by
    simp [TxQueue.reset, ringAdd, Nat.mod_eq_of_lt (show p.numSlots - 1 < p.numSlots by omega)]
  rw [TxQueue.free, htail]
  exact ringGap_ringAdd hn.2 (by change 0 < p.numSlots; omega) (by omega)

/-- None is in flight (R282). -/
theorem TxQueue.inflight_reset {p : Params} (hp : p.legal) : (TxQueue.reset p).inflight p.numSlots = 0 := by
  rw [TxQueue.inflight, TxQueue.free_reset hp, Nat.sub_self]

/-- Settles O59: the next state is `State.resetWith`, and each of its queues the queue after reset. -/
theorem resetLeavesTheResetState : Obligations.ResetLeavesTheResetState := by
  intro s rest hh
  refine ⟨_, step_of_reset hh, rfl, rfl, rfl, rfl, rfl, rfl, rfl, rfl, rfl, rfl, rfl, rfl, rfl, rfl, rfl, rfl, rfl, rfl, rfl, rfl,
    rfl, rfl, rfl, rfl, fun sp _ => ?_, rfl, rfl, rfl, List.length_replicate, List.length_replicate, fun q hq => ?_, fun q hq => ?_⟩
  · cases sp <;> rfl
  · obtain rfl := List.eq_of_mem_replicate hq
    exact ⟨rfl, rfl, rfl, rfl, fun hp => ⟨TxQueue.free_reset hp, TxQueue.inflight_reset hp⟩⟩
  · obtain rfl := List.eq_of_mem_replicate hq
    exact ⟨rfl, rfl, rfl, RxQueue.pending_reset _⟩

/-- Settles O60: empty buffers, empty queues and an idle engine meet every invariant. -/
theorem resetMeetsTheInvariants : Obligations.ResetMeetsTheInvariants := by
  refine ⟨fun p e hp => ?_, by decide, rfl⟩
  exact ⟨⟨State.memory_wf_resetWith p e .fm, State.memory_wf_resetWith p e .rf⟩, ringsInv_resetWith hp e,
    State.lengthsInv_of_idle rfl (fun _ => Nat.zero_le _) (Nat.zero_le _), State.statusInv_of_idle rfl rfl, pendingInv_resetWith p e⟩

end Sys2Proof.Machine
